-- ==== Sys2Proof/Word.lean ====
section
/-! DEFINITION. The word and byte types of the core, and its register numbers. -/

namespace Sys2Proof

/-- A word: 32 bits, bit 0 least significant (00_scope.md R9; 20_memory.md R62). -/
abbrev Word := BitVec 32

/-- A byte of memory (20_memory.md R60, R62). -/
abbrev Byte := BitVec 8

/-- A register number as an instruction holds it: 5 bits, naming one of 32 registers (10_state.md R21; 30_encoding.md R102). -/
abbrev RegNum := BitVec 5

end Sys2Proof
end

