-- ==== Sys2Proof/Config.lean ====
section
/-! DEFINITION. What an implementation or a platform fixes (the parameters of 00_scope.md R8 as data), the inputs a
step takes from the environment, and the free values: opaque constants, of which nothing can be proved. -/

namespace Sys2Proof.Config

/-- RESERVED_FIELD_POLICY (30_encoding.md R109): what a word with the identity of an instruction and a non-zero
must-be-zero field does. DESIGN CHOICE, log 5. -/
inductive ReservedFieldPolicy where
  /-- the word has no meaning: the model refuses it -/
  | refuse
  /-- the word raises Reserved Instruction -/
  | ri
  /-- the word executes as the instruction, the field ignored -/
  | ignore
  deriving DecidableEq, Repr

/-- One entry of SEGMAP (20_memory.md R69): virtual addresses vbase to vlast map linearly from the physical address
pbase, a number of PABITS bits. -/
structure Segment where
  vbase : Word
  vlast : Word
  pbase : Nat
  deriving DecidableEq, Repr

/-- What a physical window that is not ordinary memory holds (20_memory.md R77 to R79). -/
inductive WindowKind where
  /-- nothing is behind the address (R79) -/
  | unbacked
  /-- a device register: every access reaches the device, whose answers are the environment's (R77) -/
  | device
  deriving DecidableEq, Repr

/-- A range of physical addresses, first and last included, that is not ordinary memory. -/
structure Window where
  first : Nat
  last : Nat
  kind : WindowKind
  deriving DecidableEq, Repr

/-- What the implementation and the platform fix; no step changes it (log 3). -/
structure Platform where
  /-- SEGMAP (20_memory.md R69), log 4 -/
  segmap : List Segment
  /-- PABITS, the width of a physical address (00_scope.md R8), log 4 -/
  paBits : Nat
  /-- the physical windows that are not ordinary memory (20_memory.md R78), log 13 -/
  windows : List Window
  /-- RESERVED_FIELD_POLICY (30_encoding.md R109), log 5 -/
  reservedFields : ReservedFieldPolicy
  /-- INT_LATENCY (60_exceptions.md R236), log 11 -/
  intLatency : Nat
  /-- IFETCH_COHERENT (20_memory.md R83): a fetch sees every earlier store; where it is false, a fetch from a byte the
  program has stored to is refused; log 14 -/
  ifetchCoherent : Bool
  deriving DecidableEq, Repr

/-- What the environment answers for one step. -/
structure Input where
  /-- `hw_int[5:0]`, the six interrupt pins, HW5 in bit 5 (10_state.md R52), log 8 -/
  pins : BitVec 6
  /-- how many times Count increments in this step (60_exceptions.md R250), log 9 -/
  ticks : Nat
  /-- Cause.TI after a write of Count or Compare that makes the two equal (48_privileged.md R214), log 10 -/
  tiRace : Bool
  /-- the implementation wants to hold a pending interrupt back for one more instruction (60_exceptions.md R236), log 11 -/
  holdOff : Bool
  /-- what a device register answers to the load of this step, byte k for the access's byte k (20_memory.md R77), log 35 -/
  deviceData : Word
  /-- the same for the instruction fetch of this step, log 35 -/
  deviceFetch : Word
  deriving DecidableEq, Repr, Inhabited

/-- The contents of HI and LO after a division. -/
structure HiLo where
  hi : Word
  lo : Word
  deriving DecidableEq, Repr, Inhabited

/-- Which division a corner case belongs to. -/
inductive DivOp where
  | div
  | divu
  deriving DecidableEq, Repr

/-- FREE VALUE. DIVCORNER (41_arithmetic.md R137): HI and LO after a division by zero, or of 0x80000000 by 0xFFFFFFFF;
log 16. -/
opaque divCorner : DivOp → Word → Word → HiLo

/-- FREE VALUE. What MFC0 reads from a (number, select) pair that names no register (48_privileged.md R213), drawn afresh
at each moment; log 6. -/
opaque absentCp0 : BitVec 5 → BitVec 3 → Nat → Word

/-- FREE VALUE. The launch contents of a physical byte that nothing has written (10_state.md R54, R55; 20_memory.md R78);
log 12. -/
opaque launchByte : Nat → Byte

/-- FREE VALUE. The environment's answer for a step whose answer State does not script; log 8. -/
opaque inputAt : Nat → Input

end Sys2Proof.Config
end

