-- ==== Sys2Proof/Syntax.lean ====
section
/-! DEFINITION. The instructions: one constructor per row of spec/opcode_table.json, in the table's order, the operands
in the order of 30_encoding.md R113. Every operand has the width its field has, so no operand can be out of range. -/

namespace Sys2Proof

/-- The 61 instructions (00_scope.md R3). -/
inductive Instr where
  /-- ADD rd, rs, rt (41_arithmetic.md R121) -/
  | add (rd rs rt : RegNum)
  /-- ADDI rt, rs, imm (R122) -/
  | addi (rt rs : RegNum) (imm : BitVec 16)
  /-- ADDU rd, rs, rt (R123) -/
  | addu (rd rs rt : RegNum)
  /-- ADDIU rt, rs, imm (R124) -/
  | addiu (rt rs : RegNum) (imm : BitVec 16)
  /-- SUB rd, rs, rt (R125) -/
  | sub (rd rs rt : RegNum)
  /-- SUBU rd, rs, rt (R126) -/
  | subu (rd rs rt : RegNum)
  /-- SLT rd, rs, rt (R127) -/
  | slt (rd rs rt : RegNum)
  /-- SLTI rt, rs, imm (R128) -/
  | slti (rt rs : RegNum) (imm : BitVec 16)
  /-- SLTU rd, rs, rt (R129) -/
  | sltu (rd rs rt : RegNum)
  /-- SLTIU rt, rs, imm (R130) -/
  | sltiu (rt rs : RegNum) (imm : BitVec 16)
  /-- DIV rs, rt (R132) -/
  | div (rs rt : RegNum)
  /-- DIVU rs, rt (R133) -/
  | divu (rs rt : RegNum)
  /-- MULT rs, rt (R134) -/
  | mult (rs rt : RegNum)
  /-- MULTU rs, rt (R135) -/
  | multu (rs rt : RegNum)
  /-- AND rd, rs, rt (42_logic.md R140) -/
  | and (rd rs rt : RegNum)
  /-- ANDI rt, rs, imm (R141) -/
  | andi (rt rs : RegNum) (imm : BitVec 16)
  /-- LUI rt, imm (R142) -/
  | lui (rt : RegNum) (imm : BitVec 16)
  /-- NOR rd, rs, rt (R143) -/
  | nor (rd rs rt : RegNum)
  /-- OR rd, rs, rt (R144) -/
  | or (rd rs rt : RegNum)
  /-- ORI rt, rs, imm (R145) -/
  | ori (rt rs : RegNum) (imm : BitVec 16)
  /-- XOR rd, rs, rt (R146) -/
  | xor (rd rs rt : RegNum)
  /-- XORI rt, rs, imm (R147) -/
  | xori (rt rs : RegNum) (imm : BitVec 16)
  /-- SLLV rd, rt, rs (43_shift.md R150) -/
  | sllv (rd rt rs : RegNum)
  /-- SLL rd, rt, sa (R151) -/
  | sll (rd rt : RegNum) (sa : BitVec 5)
  /-- SRAV rd, rt, rs (R152) -/
  | srav (rd rt rs : RegNum)
  /-- SRA rd, rt, sa (R153) -/
  | sra (rd rt : RegNum) (sa : BitVec 5)
  /-- SRLV rd, rt, rs (R154) -/
  | srlv (rd rt rs : RegNum)
  /-- SRL rd, rt, sa (R155) -/
  | srl (rd rt : RegNum) (sa : BitVec 5)
  /-- BEQ rs, rt, offset (44_branch_jump.md R167) -/
  | beq (rs rt : RegNum) (offset : BitVec 16)
  /-- BNE rs, rt, offset (R168) -/
  | bne (rs rt : RegNum) (offset : BitVec 16)
  /-- BGEZ rs, offset (R169) -/
  | bgez (rs : RegNum) (offset : BitVec 16)
  /-- BGTZ rs, offset (R170) -/
  | bgtz (rs : RegNum) (offset : BitVec 16)
  /-- BLEZ rs, offset (R171) -/
  | blez (rs : RegNum) (offset : BitVec 16)
  /-- BLTZ rs, offset (R172) -/
  | bltz (rs : RegNum) (offset : BitVec 16)
  /-- BGEZAL rs, offset (R173) -/
  | bgezal (rs : RegNum) (offset : BitVec 16)
  /-- BLTZAL rs, offset (R174) -/
  | bltzal (rs : RegNum) (offset : BitVec 16)
  /-- J target (R175) -/
  | j (index : BitVec 26)
  /-- JAL target (R176) -/
  | jal (index : BitVec 26)
  /-- JR rs (R177) -/
  | jr (rs : RegNum)
  /-- JALR rd, rs (R178) -/
  | jalr (rd rs : RegNum)
  /-- MFHI rd (45_move_hilo.md R180) -/
  | mfhi (rd : RegNum)
  /-- MFLO rd (R181) -/
  | mflo (rd : RegNum)
  /-- MTHI rs (R182) -/
  | mthi (rs : RegNum)
  /-- MTLO rs (R183) -/
  | mtlo (rs : RegNum)
  /-- BREAK, with its code field (46_trap.md R186, R188) -/
  | brk (code : BitVec 20)
  /-- SYSCALL, with its code field (R187, R188) -/
  | syscall (code : BitVec 20)
  /-- LB rt, offset(base) (47_load_store.md R194) -/
  | lb (rt base : RegNum) (offset : BitVec 16)
  /-- LBU rt, offset(base) (R195) -/
  | lbu (rt base : RegNum) (offset : BitVec 16)
  /-- LH rt, offset(base) (R196) -/
  | lh (rt base : RegNum) (offset : BitVec 16)
  /-- LHU rt, offset(base) (R197) -/
  | lhu (rt base : RegNum) (offset : BitVec 16)
  /-- LW rt, offset(base) (R198) -/
  | lw (rt base : RegNum) (offset : BitVec 16)
  /-- LWL rt, offset(base) (R199) -/
  | lwl (rt base : RegNum) (offset : BitVec 16)
  /-- LWR rt, offset(base) (R200) -/
  | lwr (rt base : RegNum) (offset : BitVec 16)
  /-- SB rt, offset(base) (R201) -/
  | sb (rt base : RegNum) (offset : BitVec 16)
  /-- SH rt, offset(base) (R202) -/
  | sh (rt base : RegNum) (offset : BitVec 16)
  /-- SW rt, offset(base) (R203) -/
  | sw (rt base : RegNum) (offset : BitVec 16)
  /-- SWL rt, offset(base) (R204) -/
  | swl (rt base : RegNum) (offset : BitVec 16)
  /-- SWR rt, offset(base) (R205) -/
  | swr (rt base : RegNum) (offset : BitVec 16)
  /-- ERET (48_privileged.md R210) -/
  | eret
  /-- MFC0 rt, rd, sel: rd is a CP0 register number (R211) -/
  | mfc0 (rt rd : RegNum) (sel : BitVec 3)
  /-- MTC0 rt, rd, sel: rd is a CP0 register number (R212) -/
  | mtc0 (rt rd : RegNum) (sel : BitVec 3)
  deriving DecidableEq, Repr

end Sys2Proof
end

