-- ==== Sys2Proof/WellFormed.lean ====
section
/-! DEFINITION. Which instruction terms the spec gives a meaning of its own: every operand is in range by its type, so
the one check is that MFC0 and MTC0 name a CP0 register that exists (48_privileged.md R213). -/

namespace Sys2Proof

/-- The six (number, select) pairs that name a CP0 register (10_state.md R34). -/
def implementedCp0 : List (BitVec 5 × BitVec 3) :=
  [(8, 0), (9, 0), (11, 0), (12, 0), (13, 0), (14, 0)]

/-- MFC0 and MTC0 name one of the six CP0 registers (48_privileged.md R213); every other instruction is well formed as
it stands. -/
def Instr.wellFormed : Instr → Bool
  | .mfc0 _ rd sel => implementedCp0.contains (rd, sel)
  | .mtc0 _ rd sel => implementedCp0.contains (rd, sel)
  | .add .. | .addi .. | .addu .. | .addiu .. | .sub .. | .subu .. | .slt .. | .slti .. | .sltu .. | .sltiu ..
  | .div .. | .divu .. | .mult .. | .multu .. | .and .. | .andi .. | .lui .. | .nor .. | .or .. | .ori ..
  | .xor .. | .xori .. | .sllv .. | .sll .. | .srav .. | .sra .. | .srlv .. | .srl .. | .beq .. | .bne ..
  | .bgez .. | .bgtz .. | .blez .. | .bltz .. | .bgezal .. | .bltzal .. | .j .. | .jal .. | .jr .. | .jalr ..
  | .mfhi .. | .mflo .. | .mthi .. | .mtlo .. | .brk .. | .syscall .. | .lb .. | .lbu .. | .lh .. | .lhu ..
  | .lw .. | .lwl .. | .lwr .. | .sb .. | .sh .. | .sw .. | .swl .. | .swr .. | .eret => true

end Sys2Proof
end

