-- ==== Sys2Proof/Decode.lean ====
section
/-! DEFINITION. Decoding and encoding (30_encoding.md): the fields of a word, the decoder in the two stages of R107, the
encoder written from the same formats, the little-endian layout of a word, and the names of the CP0 registers. -/

namespace Sys2Proof

/-! ### Byte order -/

/-- The word whose bits 8k+7..8k are byte k of the list, little-endian (20_memory.md R63, R72); bits above the last byte
are 0. -/
def leWord : List Byte → Word
  | [] => 0
  | b :: bs => (leWord bs <<< 8) ||| b.setWidth 32

/-- The first `n` bytes of a word, least significant first (20_memory.md R63). -/
def leBytes : Nat → Word → List Byte
  | 0, _ => []
  | n + 1, w => w.setWidth 8 :: leBytes n (w >>> 8)

/-! ### Fields of a word (30_encoding.md R92 to R95) -/

/-- bits 31..26 -/
def fieldOp (w : Word) : BitVec 6 := w.extractLsb' 26 6
/-- bits 25..21, called base in loads and stores -/
def fieldRs (w : Word) : RegNum := w.extractLsb' 21 5
/-- bits 20..16 -/
def fieldRt (w : Word) : RegNum := w.extractLsb' 16 5
/-- bits 15..11 -/
def fieldRd (w : Word) : RegNum := w.extractLsb' 11 5
/-- bits 10..6 -/
def fieldSa (w : Word) : BitVec 5 := w.extractLsb' 6 5
/-- bits 5..0 -/
def fieldFunct (w : Word) : BitVec 6 := w.extractLsb' 0 6
/-- bits 15..0 -/
def fieldImm (w : Word) : BitVec 16 := w.extractLsb' 0 16
/-- bits 25..0 (R94) -/
def fieldIndex (w : Word) : BitVec 26 := w.extractLsb' 0 26
/-- bits 25..6 of BREAK and SYSCALL (R95, R110) -/
def fieldCode (w : Word) : BitVec 20 := w.extractLsb' 6 20
/-- bits 2..0 of MFC0 and MTC0 (R95) -/
def fieldSel (w : Word) : BitVec 3 := w.extractLsb' 0 3
/-- bits 10..3 of MFC0 and MTC0, zero in both (R95) -/
def fieldCp0Zero (w : Word) : BitVec 8 := w.extractLsb' 3 8
/-- bits 24..6 of ERET, zero (R95) -/
def fieldEretZero (w : Word) : BitVec 19 := w.extractLsb' 6 19
/-- bit 25 of a COP0 word (R106) -/
def fieldCo (w : Word) : Bool := w.getLsbD 25

/-! ### Decoding (30_encoding.md R107) -/

/-- What a word decodes to. -/
inductive Decoded where
  /-- the word is this instruction -/
  | instr (i : Instr)
  /-- the word has the identity of this instruction and a non-zero must-be-zero field (R109) -/
  | reservedField (i : Instr)
  /-- the word is none of the 61 instructions (R108) -/
  | unimplemented
  deriving DecidableEq, Repr

/-- Stage 2 of R107: `zero` says that every must-be-zero field of `i` is zero in the word. -/
def Decoded.checked (zero : Bool) (i : Instr) : Decoded :=
  if zero then .instr i else .reservedField i

/-- SPECIAL, opcode 000000 (R104). -/
def decodeSpecial (w : Word) : Decoded :=
  match fieldFunct w with
  | 0b000000#6 => .checked (fieldRs w == 0) (.sll (fieldRd w) (fieldRt w) (fieldSa w))
  | 0b000010#6 => .checked (fieldRs w == 0) (.srl (fieldRd w) (fieldRt w) (fieldSa w))
  | 0b000011#6 => .checked (fieldRs w == 0) (.sra (fieldRd w) (fieldRt w) (fieldSa w))
  | 0b000100#6 => .checked (fieldSa w == 0) (.sllv (fieldRd w) (fieldRt w) (fieldRs w))
  | 0b000110#6 => .checked (fieldSa w == 0) (.srlv (fieldRd w) (fieldRt w) (fieldRs w))
  | 0b000111#6 => .checked (fieldSa w == 0) (.srav (fieldRd w) (fieldRt w) (fieldRs w))
  | 0b001000#6 => .checked (fieldRt w == 0 && fieldRd w == 0 && fieldSa w == 0) (.jr (fieldRs w))
  | 0b001001#6 => .checked (fieldRt w == 0 && fieldSa w == 0) (.jalr (fieldRd w) (fieldRs w))
  | 0b001100#6 => .instr (.syscall (fieldCode w))
  | 0b001101#6 => .instr (.brk (fieldCode w))
  | 0b010000#6 => .checked (fieldRs w == 0 && fieldRt w == 0 && fieldSa w == 0) (.mfhi (fieldRd w))
  | 0b010001#6 => .checked (fieldRt w == 0 && fieldRd w == 0 && fieldSa w == 0) (.mthi (fieldRs w))
  | 0b010010#6 => .checked (fieldRs w == 0 && fieldRt w == 0 && fieldSa w == 0) (.mflo (fieldRd w))
  | 0b010011#6 => .checked (fieldRt w == 0 && fieldRd w == 0 && fieldSa w == 0) (.mtlo (fieldRs w))
  | 0b011000#6 => .checked (fieldRd w == 0 && fieldSa w == 0) (.mult (fieldRs w) (fieldRt w))
  | 0b011001#6 => .checked (fieldRd w == 0 && fieldSa w == 0) (.multu (fieldRs w) (fieldRt w))
  | 0b011010#6 => .checked (fieldRd w == 0 && fieldSa w == 0) (.div (fieldRs w) (fieldRt w))
  | 0b011011#6 => .checked (fieldRd w == 0 && fieldSa w == 0) (.divu (fieldRs w) (fieldRt w))
  | 0b100000#6 => .checked (fieldSa w == 0) (.add (fieldRd w) (fieldRs w) (fieldRt w))
  | 0b100001#6 => .checked (fieldSa w == 0) (.addu (fieldRd w) (fieldRs w) (fieldRt w))
  | 0b100010#6 => .checked (fieldSa w == 0) (.sub (fieldRd w) (fieldRs w) (fieldRt w))
  | 0b100011#6 => .checked (fieldSa w == 0) (.subu (fieldRd w) (fieldRs w) (fieldRt w))
  | 0b100100#6 => .checked (fieldSa w == 0) (.and (fieldRd w) (fieldRs w) (fieldRt w))
  | 0b100101#6 => .checked (fieldSa w == 0) (.or (fieldRd w) (fieldRs w) (fieldRt w))
  | 0b100110#6 => .checked (fieldSa w == 0) (.xor (fieldRd w) (fieldRs w) (fieldRt w))
  | 0b100111#6 => .checked (fieldSa w == 0) (.nor (fieldRd w) (fieldRs w) (fieldRt w))
  | 0b101010#6 => .checked (fieldSa w == 0) (.slt (fieldRd w) (fieldRs w) (fieldRt w))
  | 0b101011#6 => .checked (fieldSa w == 0) (.sltu (fieldRd w) (fieldRs w) (fieldRt w))
  | _ => .unimplemented

/-- REGIMM, opcode 000001 (R105). -/
def decodeRegimm (w : Word) : Decoded :=
  match fieldRt w with
  | 0b00000#5 => .instr (.bltz (fieldRs w) (fieldImm w))
  | 0b00001#5 => .instr (.bgez (fieldRs w) (fieldImm w))
  | 0b10000#5 => .instr (.bltzal (fieldRs w) (fieldImm w))
  | 0b10001#5 => .instr (.bgezal (fieldRs w) (fieldImm w))
  | _ => .unimplemented

/-- COP0, opcode 010000 (R106): MFC0 and MTC0 are known by bits 25..21, ERET by bit 25 and funct (R107; log 32). -/
def decodeCop0 (w : Word) : Decoded :=
  if fieldRs w == 0b00000 then .checked (fieldCp0Zero w == 0) (.mfc0 (fieldRt w) (fieldRd w) (fieldSel w))
  else if fieldRs w == 0b00100 then .checked (fieldCp0Zero w == 0) (.mtc0 (fieldRt w) (fieldRd w) (fieldSel w))
  else if fieldCo w && fieldFunct w == 0b011000 then .checked (fieldEretZero w == 0) .eret
  else .unimplemented

/-- The major opcode (R103). -/
def decode (w : Word) : Decoded :=
  match fieldOp w with
  | 0b000000#6 => decodeSpecial w
  | 0b000001#6 => decodeRegimm w
  | 0b000010#6 => .instr (.j (fieldIndex w))
  | 0b000011#6 => .instr (.jal (fieldIndex w))
  | 0b000100#6 => .instr (.beq (fieldRs w) (fieldRt w) (fieldImm w))
  | 0b000101#6 => .instr (.bne (fieldRs w) (fieldRt w) (fieldImm w))
  | 0b000110#6 => .checked (fieldRt w == 0) (.blez (fieldRs w) (fieldImm w))
  | 0b000111#6 => .checked (fieldRt w == 0) (.bgtz (fieldRs w) (fieldImm w))
  | 0b001000#6 => .instr (.addi (fieldRt w) (fieldRs w) (fieldImm w))
  | 0b001001#6 => .instr (.addiu (fieldRt w) (fieldRs w) (fieldImm w))
  | 0b001010#6 => .instr (.slti (fieldRt w) (fieldRs w) (fieldImm w))
  | 0b001011#6 => .instr (.sltiu (fieldRt w) (fieldRs w) (fieldImm w))
  | 0b001100#6 => .instr (.andi (fieldRt w) (fieldRs w) (fieldImm w))
  | 0b001101#6 => .instr (.ori (fieldRt w) (fieldRs w) (fieldImm w))
  | 0b001110#6 => .instr (.xori (fieldRt w) (fieldRs w) (fieldImm w))
  | 0b001111#6 => .checked (fieldRs w == 0) (.lui (fieldRt w) (fieldImm w))
  | 0b010000#6 => decodeCop0 w
  | 0b100000#6 => .instr (.lb (fieldRt w) (fieldRs w) (fieldImm w))
  | 0b100001#6 => .instr (.lh (fieldRt w) (fieldRs w) (fieldImm w))
  | 0b100010#6 => .instr (.lwl (fieldRt w) (fieldRs w) (fieldImm w))
  | 0b100011#6 => .instr (.lw (fieldRt w) (fieldRs w) (fieldImm w))
  | 0b100100#6 => .instr (.lbu (fieldRt w) (fieldRs w) (fieldImm w))
  | 0b100101#6 => .instr (.lhu (fieldRt w) (fieldRs w) (fieldImm w))
  | 0b100110#6 => .instr (.lwr (fieldRt w) (fieldRs w) (fieldImm w))
  | 0b101000#6 => .instr (.sb (fieldRt w) (fieldRs w) (fieldImm w))
  | 0b101001#6 => .instr (.sh (fieldRt w) (fieldRs w) (fieldImm w))
  | 0b101010#6 => .instr (.swl (fieldRt w) (fieldRs w) (fieldImm w))
  | 0b101011#6 => .instr (.sw (fieldRt w) (fieldRs w) (fieldImm w))
  | 0b101110#6 => .instr (.swr (fieldRt w) (fieldRs w) (fieldImm w))
  | _ => .unimplemented

/-- Decoding of an instruction's bytes, the byte at the lowest address first (R90). -/
def decodeBytes (bs : List Byte) : Decoded := decode (leWord bs)

/-- The host's question about a table row: the instruction the decoder reads from the four bytes of a word, none where
it reads no instruction. -/
def decodeTableWord (nbits w : Nat) : Option Instr :=
  match decodeBytes (leBytes 4 (BitVec.ofNat 32 (w % 2 ^ nbits))) with
  | .instr i => some i
  | .reservedField _ => none
  | .unimplemented => none

/-! ### Encoding (30_encoding.md R92 to R95, R103 to R106) -/

/-- R-Type (R92). -/
def rType (op : BitVec 6) (rs rt rd : RegNum) (sa : BitVec 5) (funct : BitVec 6) : Word :=
  op ++ rs ++ rt ++ rd ++ sa ++ funct

/-- I-Type (R93). -/
def iType (op : BitVec 6) (rs rt : RegNum) (imm : BitVec 16) : Word :=
  op ++ rs ++ rt ++ imm

/-- J-Type (R94). -/
def jType (op : BitVec 6) (index : BitVec 26) : Word :=
  op ++ index

/-- BREAK and SYSCALL (R95). -/
def codeType (code : BitVec 20) (funct : BitVec 6) : Word :=
  0b000000#6 ++ code ++ funct

/-- MFC0 and MTC0 (R95). -/
def cp0Type (sub : BitVec 5) (rt : RegNum) (rd : BitVec 5) (sel : BitVec 3) : Word :=
  0b010000#6 ++ sub ++ rt ++ rd ++ 0#8 ++ sel

/-- The word of an instruction. -/
def encode : Instr → Word
  | .add rd rs rt => rType 0b000000 rs rt rd 0 0b100000
  | .addi rt rs imm => iType 0b001000 rs rt imm
  | .addu rd rs rt => rType 0b000000 rs rt rd 0 0b100001
  | .addiu rt rs imm => iType 0b001001 rs rt imm
  | .sub rd rs rt => rType 0b000000 rs rt rd 0 0b100010
  | .subu rd rs rt => rType 0b000000 rs rt rd 0 0b100011
  | .slt rd rs rt => rType 0b000000 rs rt rd 0 0b101010
  | .slti rt rs imm => iType 0b001010 rs rt imm
  | .sltu rd rs rt => rType 0b000000 rs rt rd 0 0b101011
  | .sltiu rt rs imm => iType 0b001011 rs rt imm
  | .div rs rt => rType 0b000000 rs rt 0 0 0b011010
  | .divu rs rt => rType 0b000000 rs rt 0 0 0b011011
  | .mult rs rt => rType 0b000000 rs rt 0 0 0b011000
  | .multu rs rt => rType 0b000000 rs rt 0 0 0b011001
  | .and rd rs rt => rType 0b000000 rs rt rd 0 0b100100
  | .andi rt rs imm => iType 0b001100 rs rt imm
  | .lui rt imm => iType 0b001111 0 rt imm
  | .nor rd rs rt => rType 0b000000 rs rt rd 0 0b100111
  | .or rd rs rt => rType 0b000000 rs rt rd 0 0b100101
  | .ori rt rs imm => iType 0b001101 rs rt imm
  | .xor rd rs rt => rType 0b000000 rs rt rd 0 0b100110
  | .xori rt rs imm => iType 0b001110 rs rt imm
  | .sllv rd rt rs => rType 0b000000 rs rt rd 0 0b000100
  | .sll rd rt sa => rType 0b000000 0 rt rd sa 0b000000
  | .srav rd rt rs => rType 0b000000 rs rt rd 0 0b000111
  | .sra rd rt sa => rType 0b000000 0 rt rd sa 0b000011
  | .srlv rd rt rs => rType 0b000000 rs rt rd 0 0b000110
  | .srl rd rt sa => rType 0b000000 0 rt rd sa 0b000010
  | .beq rs rt offset => iType 0b000100 rs rt offset
  | .bne rs rt offset => iType 0b000101 rs rt offset
  | .bgez rs offset => iType 0b000001 rs 0b00001 offset
  | .bgtz rs offset => iType 0b000111 rs 0b00000 offset
  | .blez rs offset => iType 0b000110 rs 0b00000 offset
  | .bltz rs offset => iType 0b000001 rs 0b00000 offset
  | .bgezal rs offset => iType 0b000001 rs 0b10001 offset
  | .bltzal rs offset => iType 0b000001 rs 0b10000 offset
  | .j index => jType 0b000010 index
  | .jal index => jType 0b000011 index
  | .jr rs => rType 0b000000 rs 0 0 0 0b001000
  | .jalr rd rs => rType 0b000000 rs 0 rd 0 0b001001
  | .mfhi rd => rType 0b000000 0 0 rd 0 0b010000
  | .mflo rd => rType 0b000000 0 0 rd 0 0b010010
  | .mthi rs => rType 0b000000 rs 0 0 0 0b010001
  | .mtlo rs => rType 0b000000 rs 0 0 0 0b010011
  | .brk code => codeType code 0b001101
  | .syscall code => codeType code 0b001100
  | .lb rt base offset => iType 0b100000 base rt offset
  | .lbu rt base offset => iType 0b100100 base rt offset
  | .lh rt base offset => iType 0b100001 base rt offset
  | .lhu rt base offset => iType 0b100101 base rt offset
  | .lw rt base offset => iType 0b100011 base rt offset
  | .lwl rt base offset => iType 0b100010 base rt offset
  | .lwr rt base offset => iType 0b100110 base rt offset
  | .sb rt base offset => iType 0b101000 base rt offset
  | .sh rt base offset => iType 0b101001 base rt offset
  | .sw rt base offset => iType 0b101011 base rt offset
  | .swl rt base offset => iType 0b101010 base rt offset
  | .swr rt base offset => iType 0b101110 base rt offset
  | .eret => 0b010000#6 ++ 0b1#1 ++ 0#19 ++ 0b011000#6
  | .mfc0 rt rd sel => cp0Type 0b00000 rt rd sel
  | .mtc0 rt rd sel => cp0Type 0b00100 rt rd sel

/-- The bytes of an instruction, the byte at the lowest address first (R90). -/
def encodeBytes (i : Instr) : List Byte := leBytes 4 (encode i)

/-! ### The CP0 registers by number and select (10_state.md R34) -/

/-- The six CP0 registers. -/
inductive Cp0Reg where
  | badVAddr
  | count
  | compare
  | status
  | cause
  | epc
  deriving DecidableEq, Repr

/-- The register a (number, select) pair names; none for every other pair. -/
def cp0Reg (rd : BitVec 5) (sel : BitVec 3) : Option Cp0Reg :=
  if sel == 0 then
    match rd with
    | 8#5 => some .badVAddr
    | 9#5 => some .count
    | 11#5 => some .compare
    | 12#5 => some .status
    | 13#5 => some .cause
    | 14#5 => some .epc
    | _ => none
  else none

end Sys2Proof
end

