-- ==== Sys2Proof/Machine/Memory.lean ====
section
/-! DEFINITION. The memory: a list of (physical address, byte) pairs in one canonical form, its read and its write. -/

namespace Sys2Proof.Machine

/-- The physical bytes that have been written (or loaded by the platform): addresses strictly rising. -/
abbrev Memory := List Host.Cell

/-- The canonical form: addresses strictly rising. An unlisted address reads as no stored byte, so no entry can equal what
an unlisted address reads as (log 12). -/
abbrev Memory.wf (m : Memory) : Prop := m.Pairwise (fun c d => c.1 < d.1)

/-- The byte stored at a physical address; none where nothing has been stored. -/
def Memory.get : Memory → Nat → Option Byte
  | [], _ => none
  | (a, b) :: m, pa => if a = pa then some b else Memory.get m pa

/-- Store one byte, keeping the canonical form. -/
def Memory.set : Memory → Nat → Byte → Memory
  | [], pa, v => [(pa, v)]
  | (a, b) :: m, pa, v =>
    if pa < a then (pa, v) :: (a, b) :: m
    else if pa = a then (pa, v) :: m
    else (a, b) :: Memory.set m pa v

/-- What a physical byte reads as: the byte stored there, else the free launch byte (10_state.md R54, R55; log 12). -/
def Memory.byte (m : Memory) (pa : Nat) : Byte := (m.get pa).getD (Config.launchByte pa)

/-- Store the low bytes of a word at the addresses listed, least significant byte first (20_memory.md R73), but at those
only that are memory. -/
def Memory.setBytes (isMem : Nat → Bool) : Memory → List Nat → Word → Memory
  | m, [], _ => m
  | m, pa :: pas, v => Memory.setBytes isMem (if isMem pa then m.set pa (v.setWidth 8) else m) pas (v >>> 8)

/-- Add an address to a strictly rising list of addresses. -/
def insertAddr (a : Nat) : List Nat → List Nat
  | [] => [a]
  | b :: bs => if a < b then a :: b :: bs else if a = b then b :: bs else b :: insertAddr a bs

end Sys2Proof.Machine
end

