-- ==== Sys2Proof/Machine/Params.lean ====
section
/-! DEFINITION. The values the model gives the parameters of 00_scope.md R8: RESET_PC, the default SEGMAP and PABITS, and the
platform a machine has right after reset; the exception vector; and the mapping of virtual addresses. -/

namespace Sys2Proof.Machine

/-- RESET_PC. PRESUMED (70_reset_and_hazards.md R262: the MIPS32 reset vector, the spec's default; log 2): unsafe. -/
def resetPC : Word := 0xBFC00000

/-- PABITS after reset: the default of 00_scope.md R8. PRESUMED (log 4): unsafe. -/
def defaultPABits : Nat := 32

/-- The one exception vector (60_exceptions.md R243). -/
def exceptionVector : Word := 0xBFC00380

/-- The default SEGMAP: kuseg, kseg0, kseg1, kseg2, kseg3. PRESUMED (20_memory.md R69: general knowledge of MIPS32;
log 4): unsafe. -/
def defaultSegmap : List Config.Segment :=
  [ { vbase := 0x00000000, vlast := 0x7FFFFFFF, pbase := 0x00000000 },
    { vbase := 0x80000000, vlast := 0x9FFFFFFF, pbase := 0x00000000 },
    { vbase := 0xA0000000, vlast := 0xBFFFFFFF, pbase := 0x00000000 },
    { vbase := 0xC0000000, vlast := 0xDFFFFFFF, pbase := 0xC0000000 },
    { vbase := 0xE0000000, vlast := 0xFFFFFFFF, pbase := 0xE0000000 } ]

/-- The parameters of the machine right after reset. DESIGN CHOICE: every physical address is ordinary memory (log 13),
must-be-zero fields are ignored (log 5), interrupts are not held back (log 11), a fetch sees every store (log 14). -/
def defaultPlatform : Config.Platform :=
  { segmap := defaultSegmap, paBits := defaultPABits, windows := [], reservedFields := .ignore, intLatency := 0
    ifetchCoherent := true }

/-- Does the segment hold the virtual address? -/
def inSegment (va : Word) (g : Config.Segment) : Bool :=
  decide (g.vbase ≤ va) && decide (va ≤ g.vlast)

/-- `Translate(va)` before it is cut to PABITS bits: the address minus the segment's base plus a constant (20_memory.md
R68). A legal SEGMAP covers every address; where a list has no entry for one, it maps to itself (log 4). -/
def linearMap (p : Config.Platform) (va : Word) : Nat :=
  match p.segmap.find? (inSegment va) with
  | some g => (va - g.vbase).toNat + g.pbase
  | none => va.toNat

/-- `Translate(va)` (20_memory.md R68 to R70), a physical address of PABITS bits; a legal SEGMAP gives no wider one
(log 4). -/
def translate (p : Config.Platform) (va : Word) : Nat := linearMap p va % 2 ^ p.paBits

/-- What stands at a physical address that is not ordinary memory; none for ordinary memory (20_memory.md R77 to R79). -/
def windowAt (p : Config.Platform) (pa : Nat) : Option Config.WindowKind :=
  (p.windows.find? fun w => decide (w.first ≤ pa) && decide (pa ≤ w.last)).map (·.kind)

end Sys2Proof.Machine
end

