-- ==== Sys2Proof/Machine/State.lean ====
section
/-! DEFINITION. The state of the machine as plain data, the reasons a step can stop, and the state after reset. -/

namespace Sys2Proof.Machine

/-- Why the machine stops with a fault. -/
inductive Fault where
  /-- Raised by a fetch, a load or a store of a physical address that the platform says nothing is behind
  (20_memory.md R79: no exception exists for it, the processor is stuck; log 13). Safe: the model stops. -/
  | unbacked (pa : Nat)
  deriving DecidableEq, Repr

/-- Why the model gives a step no meaning. -/
inductive Refusal where
  /-- Raised only by an arm of `exec` whose instruction has no meaning yet (none has). Safe. -/
  | notModelled (mnemonic : String)
  /-- Raised by the 12 branches and jumps and by ERET in a branch delay slot (44_branch_jump.md R164; log 7). Safe. -/
  | transferInDelaySlot
  /-- Raised by the step, under the policy `refuse` only, on a word with a non-zero must-be-zero field
  (30_encoding.md R109; log 5). Safe. -/
  | reservedField
  /-- Raised by the step, on a platform where IFETCH_COHERENT is false only, on a fetch from a byte the program has stored
  to (20_memory.md R83; log 14). Safe. -/
  | incoherentFetch
  deriving DecidableEq, Repr

/-- The exceptions of the processor (60_exceptions.md R220). -/
inductive ExcCode where
  /-- interrupt -/
  | int
  /-- address error, data read or fetch -/
  | adEL
  /-- address error, data write -/
  | adES
  /-- system call -/
  | sys
  /-- breakpoint -/
  | bp
  /-- reserved instruction -/
  | ri
  /-- integer overflow -/
  | ov
  deriving DecidableEq, Repr

/-- An access that reached device registers (20_memory.md R71, R77; log 35). -/
inductive DeviceEvent where
  /-- a load or a fetch read these physical addresses -/
  | read (pas : List Nat)
  /-- a store wrote these bytes -/
  | write (cells : List Host.Cell)
  deriving DecidableEq, Repr

/-- The state of the machine (INVENTORY.md, State). -/
structure State where
  /-- r0 to r31 (10_state.md R21); slot 0 is never read nor written (R22) -/
  gpr : Vector Word 32
  /-- HI (R25) -/
  hi : Word
  /-- LO (R25) -/
  lo : Word
  /-- the address of the instruction being executed (R26) -/
  pc : Word
  /-- the address of the instruction that executes after it (R27) -/
  npc : Word
  /-- the instruction at `pc` is in a branch delay slot (R28) -/
  ds : Bool
  /-- CP0 8,0 (R35) -/
  badVAddr : Word
  /-- CP0 9,0 (R36) -/
  count : Word
  /-- CP0 11,0 (R37) -/
  compare : Word
  /-- Status.IM7..IM0 (R40) -/
  im : BitVec 8
  /-- Status.EXL (R41) -/
  exl : Bool
  /-- Status.IE (R42) -/
  ie : Bool
  /-- Cause.BD (R45) -/
  bd : Bool
  /-- Cause.TI (R46) -/
  ti : Bool
  /-- Cause.IP1..IP0 (R48) -/
  ipSw : BitVec 2
  /-- Cause.ExcCode (R49) -/
  excCode : BitVec 5
  /-- CP0 14,0 (R51) -/
  epc : Word
  /-- the interrupt pins HW5..HW0 as sampled for this step (R52, R53) -/
  hwInt : BitVec 6
  /-- MODEL: the environment's answer for the Count/Compare write race of this step (48_privileged.md R214; log 10) -/
  tiRace : Bool
  /-- MODEL: what a device register answers to a load in this step (20_memory.md R77; log 35) -/
  deviceData : Word
  /-- MODEL: what a device register answers to the fetch of this step (R77; log 35) -/
  deviceFetch : Word
  /-- MODEL: the accesses that have reached device registers, newest first (R77; log 35) -/
  deviceLog : List DeviceEvent
  /-- MODEL: the physical addresses the program has stored to, strictly rising (20_memory.md R83; log 14) -/
  stored : List Nat
  /-- MODEL: for how many instructions the present interrupt request has been held back (60_exceptions.md R236; log 11) -/
  intHeld : Nat
  /-- MODEL: the environment's answers for the coming steps (log 8) -/
  inputs : List Config.Input
  /-- MODEL: how many steps have begun (log 8) -/
  moment : Nat
  /-- MODEL: the parameters of implementation and platform; no step changes them (log 3) -/
  cfg : Config.Platform
  /-- the physical memory (20_memory.md R60) -/
  mem : Memory
  deriving DecidableEq, Repr

/-- What a meaning answers. -/
abbrev Res := Host.Outcome State Fault Refusal

/-- The machine right after reset (10_state.md R54; 70_reset_and_hazards.md R261). Where R54 gives no value the field is 0
(DESIGN CHOICE, log 1); `pc` is RESET_PC (PRESUMED, log 2). -/
def State.reset : State :=
  { gpr := Vector.replicate 32 0
    hi := 0
    lo := 0
    pc := resetPC
    npc := resetPC + 4
    ds := false
    badVAddr := 0
    count := 0
    compare := 0
    im := 0
    exl := false
    ie := false
    bd := false
    ti := false
    ipSw := 0
    excCode := 0
    epc := 0
    hwInt := 0
    tiRace := false
    deviceData := 0
    deviceFetch := 0
    deviceLog := []
    stored := []
    intHeld := 0
    inputs := []
    moment := 0
    cfg := defaultPlatform
    mem := [] }

end Sys2Proof.Machine
end

