-- ==== Sys2Proof/Machine/Flags.lean ====
section
/-! DEFINITION. This hardware has no flags (10_state.md R31). What a flag would say is computed where it is used: the
overflow test of ADD, ADDI and SUB (41_arithmetic.md R136), the comparison results (R127 to R130) and the conditions of
the branches (44_branch_jump.md R167 to R174). -/

namespace Sys2Proof.Machine

/-- The 33-bit sum of two sign-extended words (41_arithmetic.md R121, R122). -/
def sum33 (a b : Word) : BitVec 33 := a.signExtend 33 + b.signExtend 33

/-- The 33-bit difference of two sign-extended words (R125). -/
def diff33 (a b : Word) : BitVec 33 := a.signExtend 33 - b.signExtend 33

/-- The overflow test: bits 32 and 31 of the 33-bit result differ (R136). -/
def overflows (t : BitVec 33) : Bool := t.getLsbD 32 != t.getLsbD 31

/-- A comparison result: 1 or 0 (R138). -/
def boolWord (b : Bool) : Word := if b then 1 else 0

/-- Signed less-than (R127, R128). -/
def lessSigned (a b : Word) : Bool := decide (a.toInt < b.toInt)

/-- Unsigned less-than (R129, R130). -/
def lessUnsigned (a b : Word) : Bool := decide (a.toNat < b.toNat)

/-- `signed(v) >= 0` (44_branch_jump.md R169, R173). -/
def isGez (v : Word) : Bool := decide (0 ≤ v.toInt)

/-- `signed(v) > 0` (R170). -/
def isGtz (v : Word) : Bool := decide (0 < v.toInt)

/-- `signed(v) <= 0` (R171). -/
def isLez (v : Word) : Bool := decide (v.toInt ≤ 0)

/-- `signed(v) < 0` (R172, R174). -/
def isLtz (v : Word) : Bool := decide (v.toInt < 0)

/-- The 64-bit signed product (41_arithmetic.md R134). -/
def productSigned (a b : Word) : BitVec 64 := BitVec.ofInt 64 (a.toInt * b.toInt)

/-- The 64-bit unsigned product (R135). -/
def productUnsigned (a b : Word) : BitVec 64 := BitVec.ofNat 64 (a.toNat * b.toNat)

/-- HI and LO from a 64-bit product (R134, R135). -/
def hiLoOf (p : BitVec 64) : Config.HiLo := { hi := p.extractLsb' 32 32, lo := p.extractLsb' 0 32 }

/-- DIV (R132): the quotient truncated toward zero and the remainder with the dividend's sign (R131, PRESUMED, log 24); a
zero divisor, and 0x80000000 by 0xFFFFFFFF, give the free value (R137, log 16). -/
def quotientSigned (a b : Word) : Config.HiLo :=
  if b = 0 ∨ (a = 0x80000000 ∧ b = 0xFFFFFFFF) then Config.divCorner .div a b
  else { hi := BitVec.ofInt 32 (a.toInt.tmod b.toInt), lo := BitVec.ofInt 32 (a.toInt.tdiv b.toInt) }

/-- DIVU (R133): quotient and remainder; a zero divisor gives the free value (R137, log 16). -/
def quotientUnsigned (a b : Word) : Config.HiLo :=
  if b = 0 then Config.divCorner .divu a b
  else { hi := BitVec.ofNat 32 (a.toNat % b.toNat), lo := BitVec.ofNat 32 (a.toNat / b.toNat) }

end Sys2Proof.Machine
end

