-- ==== Sys2Proof/Machine/Operands.lean ====
section
/-! DEFINITION. The operand forms: immediates, shift amounts, branch and jump targets, effective addresses, and the
register merges of the unaligned loads (30_encoding.md R96 to R101; 47_load_store.md). -/

namespace Sys2Proof.Machine

/-- The sign-extended immediate (30_encoding.md R96). -/
def signExtImm (imm : BitVec 16) : Word := imm.signExtend 32

/-- The zero-extended immediate (R97). -/
def zeroExtImm (imm : BitVec 16) : Word := imm.setWidth 32

/-- The LUI immediate: the 16 bits on top, zeros below (R98). -/
def upperImm (imm : BitVec 16) : Word := imm ++ 0#16

/-- The branch offset: the field followed by 00, sign-extended (R99). -/
def branchOffset (offset : BitVec 16) : Word := (offset ++ 0#2).signExtend 32

/-- The target of a conditional branch at `pc` (44_branch_jump.md R161), modulo 2^32. -/
def branchTarget (pc : Word) (offset : BitVec 16) : Word := pc + 4 + branchOffset offset

/-- The target of J and JAL at `pc`: the high four bits of the delay slot's address, the index, 00 (R100, R175). -/
def jumpTarget (pc : Word) (index : BitVec 26) : Word := (pc + 4).extractLsb' 28 4 ++ index ++ 0#2

/-- The link value of a branch at `pc`: the address after the delay slot (44_branch_jump.md R162). -/
def linkAddr (pc : Word) : Word := pc + 8

/-- The virtual address of a load or store (47_load_store.md R190), modulo 2^32. -/
def effectiveAddr (base : Word) (offset : BitVec 16) : Word := base + signExtImm offset

/-- The amount of a variable shift: the low five bits of the register (30_encoding.md R101). -/
def shiftAmount (v : Word) : BitVec 5 := v.extractLsb' 0 5

/-- Logical left shift by 0 to 31 (43_shift.md R150, R151). -/
def shiftLeft (v : Word) (s : BitVec 5) : Word := v <<< s.toNat

/-- Logical right shift by 0 to 31 (R154, R155). -/
def shiftRight (v : Word) (s : BitVec 5) : Word := v >>> s.toNat

/-- Arithmetic right shift by 0 to 31 (R152, R153). -/
def shiftRightArith (v : Word) (s : BitVec 5) : Word := v.sshiftRight s.toNat

/-- The position of an address in its aligned word: its low two bits (47_load_store.md R199, R200, R204, R205). -/
def byteInWord (va : Word) : Nat := (va.extractLsb' 0 2).toNat

/-- The aligned word an address lies in (R199, R204). -/
def alignedWord (va : Word) : Word := va.extractLsb' 2 30 ++ 0#2

/-- LWL's merge (R199): `m` holds the k+1 bytes read, `old` the register; the bytes read go on the left. -/
def mergeLeft (k : Nat) (m old : Word) : Word :=
  match k with
  | 0 => m.extractLsb' 0 8 ++ old.extractLsb' 0 24
  | 1 => m.extractLsb' 0 16 ++ old.extractLsb' 0 16
  | 2 => m.extractLsb' 0 24 ++ old.extractLsb' 0 8
  | _ => m

/-- LWR's merge (R200; the table, 90_conflicts.md C4): `m` holds the 4-k bytes read; the bytes read go on the right. -/
def mergeRight (k : Nat) (m old : Word) : Word :=
  match k with
  | 0 => m
  | 1 => old.extractLsb' 24 8 ++ m.extractLsb' 0 24
  | 2 => old.extractLsb' 16 16 ++ m.extractLsb' 0 16
  | _ => old.extractLsb' 8 24 ++ m.extractLsb' 0 8

/-- Byte n of a word, byte 0 the least significant (00_scope.md R9). -/
def byteOf (v : Word) (n : Nat) : Byte := v.extractLsb' (8 * n) 8

/-- The bytes SWL stores: the k+1 most significant bytes of the register, moved to the bottom (R204). -/
def leftBytes (k : Nat) (v : Word) : Word := v >>> (24 - 8 * k)

end Sys2Proof.Machine
end

