-- ==== Sys2Proof/Machine/Ops.lean ====
section
/-! DEFINITION. The shared operations: registers, the end of an instruction, control transfer, memory access, taking an
exception and returning from one, the CP0 registers, the timer, interrupts and the inputs of a step. -/

namespace Sys2Proof.Machine

/-! ### Registers -/

/-- Read a general register; r0 reads 0 (10_state.md R22). -/
def State.reg (s : State) (r : RegNum) : Word := if r = 0#5 then 0 else s.gpr[r.toNat]

/-- Write a general register; a write to r0 is discarded (R22). -/
def State.setReg (s : State) (r : RegNum) (v : Word) : State :=
  { s with gpr := if r = 0#5 then s.gpr else s.gpr.set r.toNat v }

/-- Write HI and LO together (R25). -/
def State.setHiLo (s : State) (v : Config.HiLo) : State := { s with hi := v.hi, lo := v.lo }

/-- Write HI (R25). -/
def State.setHi (s : State) (v : Word) : State := { s with hi := v }

/-- Write LO (R25). -/
def State.setLo (s : State) (v : Word) : State := { s with lo := v }

/-! ### The end of an instruction (10_state.md R28) -/

/-- Go on in program order, or to the target of a branch that came before: `(pc, npc, ds) <- (npc, npc + 4, false)`. -/
def State.advance (s : State) : State := { s with pc := s.npc, npc := s.npc + 4, ds := false }

/-- A branch or jump: the delay slot executes next, then the target if taken, else the instruction after the slot
(44_branch_jump.md R160). -/
def State.branchTo (s : State) (taken : Bool) (target : Word) : State :=
  { s with pc := s.npc, npc := if taken then target else s.npc + 4, ds := true }

/-- An instruction that completes having written what `s` holds. -/
def State.done (s : State) : Res := .next s.advance

/-- An instruction that completes by writing one general register. -/
def State.doneReg (s : State) (r : RegNum) (v : Word) : Res := (s.setReg r v).done

/-- A branch or jump that writes no register. In a delay slot it is refused (44_branch_jump.md R164; log 7). -/
def State.transfer (s : State) (taken : Bool) (target : Word) : Res :=
  if s.ds then .refused .transferInDelaySlot else .next (s.branchTo taken target)

/-- A branch or jump that also writes its link register, taken or not (44_branch_jump.md R162). -/
def State.transferLink (s : State) (r : RegNum) (taken : Bool) (target : Word) : Res :=
  if s.ds then .refused .transferInDelaySlot
  else .next ((s.setReg r (linkAddr s.pc)).branchTo taken target)

/-! ### Taking an exception (60_exceptions.md R240 to R243) and returning from one -/

/-- The code written to Cause.ExcCode (60_exceptions.md R220). -/
def ExcCode.code : ExcCode → BitVec 5
  | .int => 0x00
  | .adEL => 0x04
  | .adES => 0x05
  | .sys => 0x08
  | .bp => 0x09
  | .ri => 0x0a
  | .ov => 0x0c

/-- Exception entry with the instruction at `pc` as the victim (R240): EPC and Cause.BD only when Status.EXL was 0 (R241,
R242), ExcCode always, BadVAddr for an address error (`bad` is the faulting address), EXL set, and control at the vector
(R243). -/
def State.enterException (s : State) (c : ExcCode) (bad : Option Word) : State :=
  { s with
    epc := if s.exl then s.epc else if s.ds then s.pc - 4 else s.pc
    bd := if s.exl then s.bd else s.ds
    excCode := c.code
    badVAddr := bad.getD s.badVAddr
    exl := true
    pc := exceptionVector
    npc := exceptionVector + 4
    ds := false }

/-- The instruction raises an exception that records no address. -/
def State.raise (s : State) (c : ExcCode) : Res := .next (s.enterException c none)

/-- The instruction, or its fetch, raises an address error (R222 to R224). -/
def State.raiseAddress (s : State) (c : ExcCode) (va : Word) : Res := .next (s.enterException c (some va))

/-- Return from an exception (48_privileged.md R210; R245): control at EPC with no delay slot, EXL cleared. -/
def State.exceptionReturn (s : State) : State :=
  { s with pc := s.epc, npc := s.epc + 4, ds := false, exl := false }

/-- An instruction that traps on the overflow of its 33-bit result, and else writes its low 32 bits
(41_arithmetic.md R121, R136). -/
def State.doneUnlessOverflow (s : State) (r : RegNum) (t : BitVec 33) : Res :=
  if overflows t then s.raise .ov else s.doneReg r (t.setWidth 32)

/-! ### Memory access (20_memory.md R71 to R73, R77) -/

/-- The physical address of byte k of an access at a virtual address: `Translate(va) + k` (20_memory.md R72). -/
def State.physAddr (s : State) (va : Word) (k : Nat) : Nat := translate s.cfg va + k

/-- The physical addresses of an access of n bytes, lowest first. -/
def State.physAddrs (s : State) (va : Word) (n : Nat) : List Nat := (List.range n).map (s.physAddr va)

/-- Is a device register at this physical address (20_memory.md R77)? -/
def State.isDevice (s : State) (pa : Nat) : Bool := windowAt s.cfg pa == some .device

/-- The first of these addresses with nothing behind it (20_memory.md R79). -/
def firstUnbacked (p : Config.Platform) (pas : List Nat) : Option Nat :=
  pas.find? fun pa => windowAt p pa == some .unbacked

/-- Memory or a device register is behind every byte of the access. -/
def State.backed (s : State) (va : Word) (n : Nat) : Bool := (firstUnbacked s.cfg (s.physAddrs va n)).isNone

/-- An access of n bytes: it goes on as `k`; the model stops where nothing is behind an address (20_memory.md R79;
log 13). -/
def State.withAccess (s : State) (va : Word) (n : Nat) (k : Res) : Res :=
  match firstUnbacked s.cfg (s.physAddrs va n) with
  | none => k
  | some pa => .fault (.unbacked pa)

/-- What a physical byte of memory reads as. -/
def State.readByte (s : State) (pa : Nat) : Byte := s.mem.byte pa

/-- Byte k of an access: a device register answers with byte k of `answer` (20_memory.md R77; log 35), memory with what it
holds. -/
def State.busByte (s : State) (answer va : Word) (k : Nat) : Byte :=
  if s.isDevice (s.physAddr va k) then byteOf answer k else s.readByte (s.physAddr va k)

/-- The bytes of an access, lowest address first. -/
def State.busBytes (s : State) (answer va : Word) (n : Nat) : List Byte := (List.range n).map (s.busByte answer va)

/-- `MemRead(va, n)`, zero-extended to a word (20_memory.md R72). -/
def State.memRead (s : State) (va : Word) (n : Nat) : Word := leWord (s.busBytes s.deviceData va n)

/-- The accesses that have reached devices, after a read: one more if any of its bytes is a device's (R77). -/
def State.readLog (s : State) (va : Word) (n : Nat) : List DeviceEvent :=
  match (s.physAddrs va n).filter s.isDevice with
  | [] => s.deviceLog
  | pas => .read pas :: s.deviceLog

/-- The bytes of a write that go to device registers, with their addresses. -/
def State.deviceCells (s : State) (va : Word) (n : Nat) (v : Word) : List Host.Cell :=
  ((List.range n).filter fun k => s.isDevice (s.physAddr va k)).map fun k => (s.physAddr va k, byteOf v k)

/-- The accesses that have reached devices, after a write: one more if any of its bytes is a device's (R77). -/
def State.writeLog (s : State) (va : Word) (n : Nat) (v : Word) : List DeviceEvent :=
  match s.deviceCells va n v with
  | [] => s.deviceLog
  | cells => .write cells :: s.deviceLog

/-- The read of an access reaches the devices it names, once (R71, R77). -/
def State.noteRead (s : State) (va : Word) (n : Nat) : State := { s with deviceLog := s.readLog va n }

/-- `MemWrite(va, n, v)`: the n low bytes of `v`, to memory or to the device at each address (20_memory.md R73, R77). -/
def State.memWrite (s : State) (va : Word) (n : Nat) (v : Word) : State :=
  { s with
    mem := s.mem.setBytes (fun pa => !s.isDevice pa) (s.physAddrs va n) v
    deviceLog := s.writeLog va n v
    stored := (s.physAddrs va n).foldr insertAddr s.stored }

/-- Halfword alignment (20_memory.md R65). -/
def aligned2 (va : Word) : Bool := !va.getLsbD 0

/-- Word alignment (20_memory.md R65, R66). -/
def aligned4 (va : Word) : Bool := va.extractLsb' 0 2 == 0

/-- A load with no alignment requirement: n bytes at `va`, the register written with `f` of the value read
(47_load_store.md R191). -/
def State.load (s : State) (r : RegNum) (va : Word) (n : Nat) (f : Word → Word) : Res :=
  s.withAccess va n ((s.noteRead va n).doneReg r (f (s.memRead va n)))

/-- A load that tests the alignment of its address first (R191, R192). -/
def State.loadAligned (s : State) (ok : Bool) (r : RegNum) (va : Word) (n : Nat) (f : Word → Word) : Res :=
  if ok then s.load r va n f else s.raiseAddress .adEL va

/-- A store with no alignment requirement (R191). -/
def State.store (s : State) (va : Word) (n : Nat) (v : Word) : Res :=
  s.withAccess va n (s.memWrite va n v).done

/-- A store that tests the alignment of its address first (R191, R192). -/
def State.storeAligned (s : State) (ok : Bool) (va : Word) (n : Nat) (v : Word) : Res :=
  if ok then s.store va n v else s.raiseAddress .adES va

/-! ### The CP0 registers (10_state.md R33 to R51) -/

/-- Cause.IP7..IP0 (10_state.md R47, R48; 60_exceptions.md R234): line 7 is HW5 or the timer (DEDUCED, log 20). -/
def State.interruptLines (s : State) : BitVec 8 :=
  BitVec.ofBool (s.hwInt.getLsbD 5 || s.ti) ++ s.hwInt.extractLsb' 0 5 ++ s.ipSw

/-- The Status word (10_state.md R43); Bev reads 1 (R39). -/
def State.status (s : State) : Word :=
  0#9 ++ 1#1 ++ 0#6 ++ s.im ++ 0#6 ++ BitVec.ofBool s.exl ++ BitVec.ofBool s.ie

/-- The Cause word (10_state.md R50). -/
def State.cause (s : State) : Word :=
  BitVec.ofBool s.bd ++ BitVec.ofBool s.ti ++ 0#14 ++ s.interruptLines ++ 0#1 ++ s.excCode ++ 0#2

/-- `CP0read` (48_privileged.md R211). A pair that names no register reads as a free value (R213; log 6). -/
def State.readCp0 (s : State) (rd : BitVec 5) (sel : BitVec 3) : Word :=
  match cp0Reg rd sel with
  | some .badVAddr => s.badVAddr
  | some .count => s.count
  | some .compare => s.compare
  | some .status => s.status
  | some .cause => s.cause
  | some .epc => s.epc
  | none => Config.absentCp0 rd sel s.moment

/-- Write Count; Cause.TI only where the write makes it equal Compare, and then a free value (48_privileged.md R214;
log 10). -/
def State.setCount (s : State) (v : Word) : State :=
  { s with count := v, ti := if v = s.compare then s.tiRace else s.ti }

/-- Write Compare: Cause.TI is cleared, but where the write makes it equal Count it is a free value (R214; log 10). -/
def State.setCompare (s : State) (v : Word) : State :=
  { s with compare := v, ti := if v = s.count then s.tiRace else false }

/-- Write Status: IM, EXL and IE; every other bit is ignored (10_state.md R43; R214). -/
def State.setStatus (s : State) (v : Word) : State :=
  { s with im := v.extractLsb' 8 8, exl := v.getLsbD 1, ie := v.getLsbD 0 }

/-- Write Cause: IP1..IP0; every other bit is ignored (10_state.md R50; R214). -/
def State.setCause (s : State) (v : Word) : State := { s with ipSw := v.extractLsb' 8 2 }

/-- Write EPC, all 32 bits (10_state.md R51; R214). -/
def State.setEpc (s : State) (v : Word) : State := { s with epc := v }

/-- `CP0write` (48_privileged.md R212, R214). BadVAddr is read-only (R35); a pair that names no register is not written
(R213; log 6). -/
def State.writeCp0 (s : State) (rd : BitVec 5) (sel : BitVec 3) (v : Word) : State :=
  match cp0Reg rd sel with
  | some .badVAddr => s
  | some .count => s.setCount v
  | some .compare => s.setCompare v
  | some .status => s.setStatus v
  | some .cause => s.setCause v
  | some .epc => s.setEpc v
  | none => s

/-! ### The timer (60_exceptions.md R250, R251) -/

/-- Does one of the next `n` single increments of Count reach Compare? -/
def reaches (count compare : Word) : Nat → Bool
  | 0 => false
  | n + 1 => count + 1 == compare || reaches (count + 1) compare n

/-- `n` ticks: Count advances modulo 2^32, and Cause.TI is set if an increment made Count equal Compare. -/
def State.tick (s : State) (n : Nat) : State :=
  { s with count := s.count + BitVec.ofNat 32 n, ti := s.ti || reaches s.count s.compare n }

/-! ### The inputs of a step, and interrupts (10_state.md R30, parts 1 and 2) -/

/-- The environment's answer for the step about to begin: the scripted one, else a free value (log 8). -/
def State.input (s : State) : Config.Input :=
  match s.inputs with
  | [] => Config.inputAt s.moment
  | i :: _ => i

/-- Part 1 of a step: time passes, the pins are sampled and the devices' answers for the step are drawn. -/
def State.sample (s : State) : State :=
  { s.tick s.input.ticks with
    hwInt := s.input.pins
    tiRace := s.input.tiRace
    deviceData := s.input.deviceData
    deviceFetch := s.input.deviceFetch
    inputs := s.inputs.tail
    moment := s.moment + 1 }

/-- The interrupt condition (60_exceptions.md R235). -/
def State.interruptPending (s : State) : Bool :=
  s.ie && !s.exl && s.interruptLines &&& s.im != 0

/-- Is the interrupt taken in this step? With the condition true it is, unless the implementation holds it back, for at
most INT_LATENCY instructions (60_exceptions.md R236; log 11). -/
def State.interruptTaken (s : State) (holdOff : Bool) : Bool :=
  s.interruptPending && !(holdOff && decide (s.intHeld < s.cfg.intLatency))

/-- Count one more instruction for which a pending interrupt is held back; start again where none is pending. -/
def State.noteHeld (s : State) : State :=
  { s with intHeld := if s.interruptPending then s.intHeld + 1 else 0 }

/-- Take the Interrupt exception with the instruction at `pc` as the victim (60_exceptions.md R236, R240). -/
def State.takeInterrupt (s : State) : State :=
  { s.enterException .int none with intHeld := 0 }

end Sys2Proof.Machine
end

