-- ==== Sys2Proof/Machine/Arithmetic.lean ====
section
/-! DEFINITION. The arithmetic instructions (41_arithmetic.md). -/

namespace Sys2Proof.Machine

/-- ADD (R121): traps on signed overflow. -/
def execAdd (rd rs rt : RegNum) (s : State) : Res := s.doneUnlessOverflow rd (sum33 (s.reg rs) (s.reg rt))

/-- ADDI (R122): traps on signed overflow. -/
def execAddi (rt rs : RegNum) (imm : BitVec 16) (s : State) : Res :=
  s.doneUnlessOverflow rt (sum33 (s.reg rs) (signExtImm imm))

/-- ADDU (R123). -/
def execAddu (rd rs rt : RegNum) (s : State) : Res := s.doneReg rd (s.reg rs + s.reg rt)

/-- ADDIU (R124). -/
def execAddiu (rt rs : RegNum) (imm : BitVec 16) (s : State) : Res := s.doneReg rt (s.reg rs + signExtImm imm)

/-- SUB (R125): traps on signed overflow. -/
def execSub (rd rs rt : RegNum) (s : State) : Res := s.doneUnlessOverflow rd (diff33 (s.reg rs) (s.reg rt))

/-- SUBU (R126). -/
def execSubu (rd rs rt : RegNum) (s : State) : Res := s.doneReg rd (s.reg rs - s.reg rt)

/-- SLT (R127). -/
def execSlt (rd rs rt : RegNum) (s : State) : Res := s.doneReg rd (boolWord (lessSigned (s.reg rs) (s.reg rt)))

/-- SLTI (R128). -/
def execSlti (rt rs : RegNum) (imm : BitVec 16) (s : State) : Res :=
  s.doneReg rt (boolWord (lessSigned (s.reg rs) (signExtImm imm)))

/-- SLTU (R129). -/
def execSltu (rd rs rt : RegNum) (s : State) : Res := s.doneReg rd (boolWord (lessUnsigned (s.reg rs) (s.reg rt)))

/-- SLTIU (R130): the immediate is sign-extended, then compared unsigned. -/
def execSltiu (rt rs : RegNum) (imm : BitVec 16) (s : State) : Res :=
  s.doneReg rt (boolWord (lessUnsigned (s.reg rs) (signExtImm imm)))

/-- DIV (R132, R137). -/
def execDiv (rs rt : RegNum) (s : State) : Res := (s.setHiLo (quotientSigned (s.reg rs) (s.reg rt))).done

/-- DIVU (R133, R137). -/
def execDivu (rs rt : RegNum) (s : State) : Res := (s.setHiLo (quotientUnsigned (s.reg rs) (s.reg rt))).done

/-- MULT (R134). -/
def execMult (rs rt : RegNum) (s : State) : Res := (s.setHiLo (hiLoOf (productSigned (s.reg rs) (s.reg rt)))).done

/-- MULTU (R135). -/
def execMultu (rs rt : RegNum) (s : State) : Res := (s.setHiLo (hiLoOf (productUnsigned (s.reg rs) (s.reg rt)))).done

end Sys2Proof.Machine
end

