-- ==== Sys2Proof/Machine/Branch.lean ====
section
/-! DEFINITION. The branch and jump instructions (44_branch_jump.md). -/

namespace Sys2Proof.Machine

/-- BEQ (R167). -/
def execBeq (rs rt : RegNum) (offset : BitVec 16) (s : State) : Res :=
  s.transfer (s.reg rs == s.reg rt) (branchTarget s.pc offset)

/-- BNE (R168). -/
def execBne (rs rt : RegNum) (offset : BitVec 16) (s : State) : Res :=
  s.transfer (s.reg rs != s.reg rt) (branchTarget s.pc offset)

/-- BGEZ (R169). -/
def execBgez (rs : RegNum) (offset : BitVec 16) (s : State) : Res :=
  s.transfer (isGez (s.reg rs)) (branchTarget s.pc offset)

/-- BGTZ (R170). -/
def execBgtz (rs : RegNum) (offset : BitVec 16) (s : State) : Res :=
  s.transfer (isGtz (s.reg rs)) (branchTarget s.pc offset)

/-- BLEZ (R171). -/
def execBlez (rs : RegNum) (offset : BitVec 16) (s : State) : Res :=
  s.transfer (isLez (s.reg rs)) (branchTarget s.pc offset)

/-- BLTZ (R172). -/
def execBltz (rs : RegNum) (offset : BitVec 16) (s : State) : Res :=
  s.transfer (isLtz (s.reg rs)) (branchTarget s.pc offset)

/-- BGEZAL (R173): r31 is written, taken or not; the condition is read before. -/
def execBgezal (rs : RegNum) (offset : BitVec 16) (s : State) : Res :=
  s.transferLink 31 (isGez (s.reg rs)) (branchTarget s.pc offset)

/-- BLTZAL (R174): r31 is written, taken or not; the condition is read before. -/
def execBltzal (rs : RegNum) (offset : BitVec 16) (s : State) : Res :=
  s.transferLink 31 (isLtz (s.reg rs)) (branchTarget s.pc offset)

/-- J (R175). -/
def execJ (index : BitVec 26) (s : State) : Res := s.transfer true (jumpTarget s.pc index)

/-- JAL (R176). -/
def execJal (index : BitVec 26) (s : State) : Res := s.transferLink 31 true (jumpTarget s.pc index)

/-- JR (R177): no check of the target here; a misaligned one raises AdEL when it is fetched (R163). -/
def execJr (rs : RegNum) (s : State) : Res := s.transfer true (s.reg rs)

/-- JALR (R178): the target is read before rd is written. -/
def execJalr (rd rs : RegNum) (s : State) : Res := s.transferLink rd true (s.reg rs)

end Sys2Proof.Machine
end

