-- ==== Sys2Proof/Machine/LoadStore.lean ====
section
/-! DEFINITION. The load and store instructions (47_load_store.md). -/

namespace Sys2Proof.Machine

/-- The virtual address of a load or store (R190). -/
def State.dataAddr (s : State) (base : RegNum) (offset : BitVec 16) : Word := effectiveAddr (s.reg base) offset

/-- LB (R194). -/
def execLb (rt base : RegNum) (offset : BitVec 16) (s : State) : Res :=
  s.load rt (s.dataAddr base offset) 1 (fun m => (m.setWidth 8).signExtend 32)

/-- LBU (R195). -/
def execLbu (rt base : RegNum) (offset : BitVec 16) (s : State) : Res :=
  s.load rt (s.dataAddr base offset) 1 (fun m => (m.setWidth 8).setWidth 32)

/-- LH (R196). -/
def execLh (rt base : RegNum) (offset : BitVec 16) (s : State) : Res :=
  s.loadAligned (aligned2 (s.dataAddr base offset)) rt (s.dataAddr base offset) 2 (fun m => (m.setWidth 16).signExtend 32)

/-- LHU (R197). -/
def execLhu (rt base : RegNum) (offset : BitVec 16) (s : State) : Res :=
  s.loadAligned (aligned2 (s.dataAddr base offset)) rt (s.dataAddr base offset) 2 (fun m => (m.setWidth 16).setWidth 32)

/-- LW (R198). -/
def execLw (rt base : RegNum) (offset : BitVec 16) (s : State) : Res :=
  s.loadAligned (aligned4 (s.dataAddr base offset)) rt (s.dataAddr base offset) 4 (fun m => m)

/-- LWL (R199): reads the bytes from the aligned word up to the address and no others (log 29). -/
def execLwl (rt base : RegNum) (offset : BitVec 16) (s : State) : Res :=
  s.load rt (alignedWord (s.dataAddr base offset)) (byteInWord (s.dataAddr base offset) + 1)
    (fun m => mergeLeft (byteInWord (s.dataAddr base offset)) m (s.reg rt))

/-- LWR (R200): reads the bytes from the address to the end of its aligned word and no others (log 29). -/
def execLwr (rt base : RegNum) (offset : BitVec 16) (s : State) : Res :=
  s.load rt (s.dataAddr base offset) (4 - byteInWord (s.dataAddr base offset))
    (fun m => mergeRight (byteInWord (s.dataAddr base offset)) m (s.reg rt))

/-- SB (R201). -/
def execSb (rt base : RegNum) (offset : BitVec 16) (s : State) : Res :=
  s.store (s.dataAddr base offset) 1 (s.reg rt)

/-- SH (R202). -/
def execSh (rt base : RegNum) (offset : BitVec 16) (s : State) : Res :=
  s.storeAligned (aligned2 (s.dataAddr base offset)) (s.dataAddr base offset) 2 (s.reg rt)

/-- SW (R203). -/
def execSw (rt base : RegNum) (offset : BitVec 16) (s : State) : Res :=
  s.storeAligned (aligned4 (s.dataAddr base offset)) (s.dataAddr base offset) 4 (s.reg rt)

/-- SWL (R204): stores the k+1 most significant bytes of rt. -/
def execSwl (rt base : RegNum) (offset : BitVec 16) (s : State) : Res :=
  s.store (alignedWord (s.dataAddr base offset)) (byteInWord (s.dataAddr base offset) + 1)
    (leftBytes (byteInWord (s.dataAddr base offset)) (s.reg rt))

/-- SWR (R205; the table, 90_conflicts.md C5): stores the 4-k least significant bytes of rt. -/
def execSwr (rt base : RegNum) (offset : BitVec 16) (s : State) : Res :=
  s.store (s.dataAddr base offset) (4 - byteInWord (s.dataAddr base offset)) (s.reg rt)

end Sys2Proof.Machine
end

