-- ==== Sys2Proof/Machine/Logic.lean ====
section
/-! DEFINITION. The logical instructions (42_logic.md). -/

namespace Sys2Proof.Machine

/-- AND (R140). -/
def execAnd (rd rs rt : RegNum) (s : State) : Res := s.doneReg rd (s.reg rs &&& s.reg rt)

/-- ANDI (R141). -/
def execAndi (rt rs : RegNum) (imm : BitVec 16) (s : State) : Res := s.doneReg rt (s.reg rs &&& zeroExtImm imm)

/-- LUI (R142). -/
def execLui (rt : RegNum) (imm : BitVec 16) (s : State) : Res := s.doneReg rt (upperImm imm)

/-- NOR (R143). -/
def execNor (rd rs rt : RegNum) (s : State) : Res := s.doneReg rd (~~~(s.reg rs ||| s.reg rt))

/-- OR (R144). -/
def execOr (rd rs rt : RegNum) (s : State) : Res := s.doneReg rd (s.reg rs ||| s.reg rt)

/-- ORI (R145). -/
def execOri (rt rs : RegNum) (imm : BitVec 16) (s : State) : Res := s.doneReg rt (s.reg rs ||| zeroExtImm imm)

/-- XOR (R146). -/
def execXor (rd rs rt : RegNum) (s : State) : Res := s.doneReg rd (s.reg rs ^^^ s.reg rt)

/-- XORI (R147). -/
def execXori (rt rs : RegNum) (imm : BitVec 16) (s : State) : Res := s.doneReg rt (s.reg rs ^^^ zeroExtImm imm)

end Sys2Proof.Machine
end

