-- ==== Sys2Proof/Machine/MoveHiLo.lean ====
section
/-! DEFINITION. The data move instructions (45_move_hilo.md). -/

namespace Sys2Proof.Machine

/-- MFHI (R180). -/
def execMfhi (rd : RegNum) (s : State) : Res := s.doneReg rd s.hi

/-- MFLO (R181). -/
def execMflo (rd : RegNum) (s : State) : Res := s.doneReg rd s.lo

/-- MTHI (R182): LO is not changed. -/
def execMthi (rs : RegNum) (s : State) : Res := (s.setHi (s.reg rs)).done

/-- MTLO (R183): HI is not changed. -/
def execMtlo (rs : RegNum) (s : State) : Res := (s.setLo (s.reg rs)).done

end Sys2Proof.Machine
end

