-- ==== Sys2Proof/Machine/Privileged.lean ====
section
/-! DEFINITION. The privileged instructions (48_privileged.md); the one mode may run them always (R215). -/

namespace Sys2Proof.Machine

/-- ERET (R210): no delay slot; in a delay slot it is refused (44_branch_jump.md R164; log 7). -/
def execEret (s : State) : Res := if s.ds then .refused .transferInDelaySlot else .next s.exceptionReturn

/-- MFC0 (R211, R213). -/
def execMfc0 (rt : RegNum) (rd : BitVec 5) (sel : BitVec 3) (s : State) : Res := s.doneReg rt (s.readCp0 rd sel)

/-- MTC0 (R212, R213, R214). -/
def execMtc0 (rt : RegNum) (rd : BitVec 5) (sel : BitVec 3) (s : State) : Res := (s.writeCp0 rd sel (s.reg rt)).done

end Sys2Proof.Machine
end

