-- ==== Sys2Proof/Machine/Shift.lean ====
section
/-! DEFINITION. The shift instructions (43_shift.md): rt is shifted, by the sa field or by the low five bits of rs. -/

namespace Sys2Proof.Machine

/-- SLLV (R150). -/
def execSllv (rd rt rs : RegNum) (s : State) : Res := s.doneReg rd (shiftLeft (s.reg rt) (shiftAmount (s.reg rs)))

/-- SLL (R151). -/
def execSll (rd rt : RegNum) (sa : BitVec 5) (s : State) : Res := s.doneReg rd (shiftLeft (s.reg rt) sa)

/-- SRAV (R152). -/
def execSrav (rd rt rs : RegNum) (s : State) : Res := s.doneReg rd (shiftRightArith (s.reg rt) (shiftAmount (s.reg rs)))

/-- SRA (R153). -/
def execSra (rd rt : RegNum) (sa : BitVec 5) (s : State) : Res := s.doneReg rd (shiftRightArith (s.reg rt) sa)

/-- SRLV (R154). -/
def execSrlv (rd rt rs : RegNum) (s : State) : Res := s.doneReg rd (shiftRight (s.reg rt) (shiftAmount (s.reg rs)))

/-- SRL (R155). -/
def execSrl (rd rt : RegNum) (sa : BitVec 5) (s : State) : Res := s.doneReg rd (shiftRight (s.reg rt) sa)

end Sys2Proof.Machine
end

