-- ==== Sys2Proof/Machine/Trap.lean ====
section
/-! DEFINITION. The trap instructions (46_trap.md): each takes its exception; the code field is ignored (R188). -/

namespace Sys2Proof.Machine

/-- BREAK (R186). -/
def execBreak (s : State) : Res := s.raise .bp

/-- SYSCALL (R187). -/
def execSyscall (s : State) : Res := s.raise .sys

end Sys2Proof.Machine
end

