-- ==== Sys2Proof/Machine/Cycle.lean ====
section
/-! DEFINITION. One step of the processor in the order of 10_state.md R30: sample, interrupt, fetch, decode, execute;
and the placing of an instruction where the next step fetches it. -/

namespace Sys2Proof.Machine

/-- Parts 5 and 6 of R30: what the decoded word does. A word that is none of the 61 raises Reserved Instruction
(60_exceptions.md R229); a word with a non-zero must-be-zero field follows RESERVED_FIELD_POLICY (30_encoding.md R109;
log 5). -/
def State.runDecoded (s : State) (d : Decoded) : Res :=
  match d with
  | .instr i => exec i s
  | .unimplemented => s.raise .ri
  | .reservedField i =>
    match s.cfg.reservedFields with
    | .refuse => .refused .reservedField
    | .ri => s.raise .ri
    | .ignore => exec i s

/-- The bytes of the word at `pc`, lowest address first (20_memory.md R74; 30_encoding.md R90). -/
def State.fetchBytes (s : State) : List Byte := s.busBytes s.deviceFetch s.pc 4

/-- Does the fetch see memory as the model knows it: every fetch does where IFETCH_COHERENT is true, and else one from
bytes the program has not stored to (20_memory.md R83; log 14). -/
def State.fetchSees (s : State) : Bool :=
  s.cfg.ifetchCoherent || (s.physAddrs s.pc 4).all fun pa => !s.stored.contains pa

/-- The fetch from memory or a device (R74, R77), or its refusal (R83), and what the word does. -/
def State.fetchRun (s : State) : Res :=
  if s.fetchSees then (s.noteRead s.pc 4).runDecoded (decodeBytes s.fetchBytes) else .refused .incoherentFetch

/-- Parts 3 to 6 of R30: a `pc` that is no multiple of 4 raises AdEL (20_memory.md R66; 60_exceptions.md R222), else the
word at `pc` is fetched, decoded and run. -/
def State.fetchExecute (s : State) : Res :=
  if aligned4 s.pc then s.withAccess s.pc 4 s.fetchRun
  else s.raiseAddress .adEL s.pc

/-- One step (R30): part 1 samples, part 2 takes an interrupt, and where none is taken parts 3 to 6 run. -/
def State.cycle (s : State) : Res :=
  if s.sample.interruptTaken s.input.holdOff then .next s.sample.takeInterrupt
  else s.sample.noteHeld.fetchExecute

/-- The state with a word loaded into memory, from outside the machine, where the next step fetches (20_memory.md R74,
R78; log 15). -/
def State.placeWord (s : State) (w : Word) : State :=
  { s with mem := s.mem.setBytes (fun _ => true) (s.physAddrs s.pc 4) w }

end Sys2Proof.Machine
end

