-- ==== Sys2Proof/Machine/Step.lean ====
section
/-! DEFINITION. The step of the machine, and the host's placing of an instruction. -/

namespace Sys2Proof.Machine

/-- One step of the processor (10_state.md R30). -/
def step (s : State) : Host.Outcome State Fault Refusal := s.cycle

/-- The state with an instruction of `nbits` bits, numbered `w`, where the next step fetches it (log 15). -/
def State.withFetchWord (s : State) (nbits w : Nat) : State := s.placeWord (BitVec.ofNat 32 (w % 2 ^ nbits))

end Sys2Proof.Machine
end

