-- ==== Sys2Proof/Safety.lean ====
section
/-! DEFINITION. What counts as a legal SEGMAP, as a well-formed state and as a safe run, in the terms the statements
use. -/

namespace Sys2Proof.Machine

/-- Consecutive segments join: each begins right after the last address of the one before, and above it. -/
def segmentsJoin : List Config.Segment → Bool
  | g :: h :: gs => h.vbase == g.vlast + 1 && decide (g.vlast < h.vbase) && segmentsJoin (h :: gs)
  | _ => true

/-- One segment: its first address is not above its last, it begins, ends and maps on word boundaries, and its physical
range fits in PABITS bits. -/
def segmentOk (paBits : Nat) (g : Config.Segment) : Bool :=
  decide (g.vbase ≤ g.vlast) && aligned4 g.vbase && aligned4 (g.vlast + 1) && decide (g.pbase % 4 = 0) &&
    decide (g.pbase + (g.vlast - g.vbase).toNat < 2 ^ paBits)

/-- A legal SEGMAP (20_memory.md R68, R69): five segments covering 0x00000000 to 0xFFFFFFFF in order, without gap or
overlap, each onto a contiguous range of physical addresses (that they lie on word boundaries is the model's reading,
log 4). -/
def platformOk (p : Config.Platform) : Bool :=
  p.segmap.length == 5 && p.segmap.head?.any (fun g => g.vbase == 0) &&
    p.segmap.getLast?.any (fun g => g.vlast == 0xFFFFFFFF) && segmentsJoin p.segmap && p.segmap.all (segmentOk p.paBits)

/-- The codes of the seven exceptions (60_exceptions.md R220). -/
def legalExcCodes : List (BitVec 5) := [0x00, 0x04, 0x05, 0x08, 0x09, 0x0a, 0x0c]

/-- The invariant of the machine: outside a delay slot the next address is the word after `pc` (44_branch_jump.md R164);
a delay slot is word-aligned (60_exceptions.md R222); Cause.ExcCode holds one of the seven codes (R220); the unused slot
of r0 is 0; the memory, and the list of the addresses stored to, are in their canonical forms; and with a legal SEGMAP
memory lists physical addresses of PABITS bits only. -/
structure State.Inv (s : State) : Prop where
  straight : s.ds = false → s.npc = s.pc + 4
  slotAligned : s.ds = true → aligned4 s.pc = true
  codeLegal : s.excCode ∈ legalExcCodes
  zeroSlot : s.gpr[0] = 0
  memWf : s.mem.wf
  storedRising : s.stored.Pairwise (· < ·)
  memInSpace : platformOk s.cfg = true → ∀ c ∈ s.mem, c.1 < 2 ^ s.cfg.paBits

/-! ### The words of the statements: what an instruction changes and what it leaves -/

/-- Byte k of a load at a virtual address: what memory holds there, or what the device there answers (20_memory.md
R77). -/
def State.byteAt (s : State) (va : Word) (k : Nat) : Byte := s.busByte s.deviceData va k

/-- Every byte of the access is ordinary memory: neither a device's nor without anything behind it. -/
def State.ordinary (s : State) (va : Word) (n : Nat) : Bool := (s.physAddrs va n).all fun pa => (windowAt s.cfg pa).isNone

/-- Some byte of the access is a device register's. -/
def State.touchesDevice (s : State) (va : Word) (n : Nat) : Bool := (s.physAddrs va n).any s.isDevice

/-- The state in which a step that takes no interrupt runs the instruction it fetched: sampled, and with the fetch noted by
any device it read. -/
def State.atExecute (s : State) : State := s.sample.noteHeld.noteRead s.pc 4

/-- The 12 branches and jumps (00_scope.md R3). -/
def isBranchOrJump : Instr → Bool
  | .beq _ _ _ | .bne _ _ _ | .bgez _ _ | .bgtz _ _ | .blez _ _ | .bltz _ _ | .bgezal _ _ | .bltzal _ _
  | .j _ | .jal _ | .jr _ | .jalr _ _ => true
  | _ => false

/-- The seven loads (47_load_store.md). -/
def isLoad : Instr → Bool
  | .lb _ _ _ | .lbu _ _ _ | .lh _ _ _ | .lhu _ _ _ | .lw _ _ _ | .lwl _ _ _ | .lwr _ _ _ => true
  | _ => false

/-- The five stores (47_load_store.md). -/
def isStore : Instr → Bool
  | .sb _ _ _ | .sh _ _ _ | .sw _ _ _ | .swl _ _ _ | .swr _ _ _ => true
  | _ => false

/-- Every general register reads as before. -/
def State.SameRegs (s t : State) : Prop := ∀ r, t.reg r = s.reg r

/-- Every physical byte reads as before. -/
def State.SameMemory (s t : State) : Prop := ∀ pa, t.readByte pa = s.readByte pa

/-- HI and LO are as before. -/
def State.SameHiLo (s t : State) : Prop := t.hi = s.hi ∧ t.lo = s.lo

/-- Every field of the six CP0 registers is as before. -/
structure State.SameCp0 (s t : State) : Prop where
  badVAddr : t.badVAddr = s.badVAddr
  count : t.count = s.count
  compare : t.compare = s.compare
  im : t.im = s.im
  exl : t.exl = s.exl
  ie : t.ie = s.ie
  bd : t.bd = s.bd
  ti : t.ti = s.ti
  ipSw : t.ipSw = s.ipSw
  excCode : t.excCode = s.excCode
  epc : t.epc = s.epc

/-- No access reached a device, and nothing was stored. -/
def State.SameBus (s t : State) : Prop := t.deviceLog = s.deviceLog ∧ t.stored = s.stored

/-- The sampled pins and answers, the model's own counters and the parameters are as before. -/
structure State.SameSetting (s t : State) : Prop where
  hwInt : t.hwInt = s.hwInt
  tiRace : t.tiRace = s.tiRace
  deviceData : t.deviceData = s.deviceData
  deviceFetch : t.deviceFetch = s.deviceFetch
  intHeld : t.intHeld = s.intHeld
  inputs : t.inputs = s.inputs
  moment : t.moment = s.moment
  cfg : t.cfg = s.cfg

/-- The end of an instruction that is no transfer (10_state.md R28). -/
def State.GoesOn (s t : State) : Prop := t.pc = s.npc ∧ t.npc = s.npc + 4 ∧ t.ds = false

/-- The end of a branch or jump (10_state.md R28): the next instruction is in a delay slot, and `after` comes after it. -/
def State.TransfersTo (s t : State) (after : Word) : Prop := t.pc = s.npc ∧ t.npc = after ∧ t.ds = true

/-- Of the general registers only `r` is written, with `v`; where `r` is r0 nothing is (10_state.md R22). -/
structure State.RegWritten (s t : State) (r : RegNum) (v : Word) : Prop where
  value : r ≠ 0#5 → t.reg r = v
  zero : t.reg 0#5 = 0#32
  others : ∀ q, q ≠ r → t.reg q = s.reg q

/-- An instruction completed whose one effect is the write of a general register. -/
structure State.WroteReg (s t : State) (r : RegNum) (v : Word) : Prop where
  goesOn : s.GoesOn t
  regs : s.RegWritten t r v
  hiLo : s.SameHiLo t
  cp0 : s.SameCp0 t
  memory : s.SameMemory t
  bus : s.SameBus t
  setting : s.SameSetting t

/-- An instruction completed whose one effect is on HI and LO. -/
structure State.WroteHiLo (s t : State) (hi lo : Word) : Prop where
  goesOn : s.GoesOn t
  hi : t.hi = hi
  lo : t.lo = lo
  regs : s.SameRegs t
  cp0 : s.SameCp0 t
  memory : s.SameMemory t
  bus : s.SameBus t
  setting : s.SameSetting t

/-- A branch or jump completed that writes no register. -/
structure State.Branched (s t : State) (after : Word) : Prop where
  transfers : s.TransfersTo t after
  regs : s.SameRegs t
  hiLo : s.SameHiLo t
  cp0 : s.SameCp0 t
  memory : s.SameMemory t
  bus : s.SameBus t
  setting : s.SameSetting t

/-- A linking branch or jump completed: its link register holds the address after the delay slot (44_branch_jump.md
R162). -/
structure State.Linked (s t : State) (r : RegNum) (after : Word) : Prop where
  transfers : s.TransfersTo t after
  regs : s.RegWritten t r (s.pc + 8#32)
  hiLo : s.SameHiLo t
  cp0 : s.SameCp0 t
  memory : s.SameMemory t
  bus : s.SameBus t
  setting : s.SameSetting t

/-- A load of n bytes at `va` completed and wrote a general register. If any of the bytes is a device's, the device was
read once, `r` being r0 or not (20_memory.md R77; 10_state.md R22); else no device was. -/
structure State.Loaded (s t : State) (va : Word) (n : Nat) (r : RegNum) (v : Word) : Prop where
  goesOn : s.GoesOn t
  regs : s.RegWritten t r v
  device : t.deviceLog =
    if s.touchesDevice va n then .read ((s.physAddrs va n).filter s.isDevice) :: s.deviceLog else s.deviceLog
  stored : t.stored = s.stored
  hiLo : s.SameHiLo t
  cp0 : s.SameCp0 t
  memory : s.SameMemory t
  setting : s.SameSetting t

/-- A store completed: of the n bytes of the access at `va` those of memory hold `bytes`, and those of device registers
reached their devices, in one access (20_memory.md R77). Every other byte is as before. -/
structure State.Stored (s t : State) (va : Word) (n : Nat) (bytes : Nat → Byte) : Prop where
  goesOn : s.GoesOn t
  written : ∀ k, k < n → s.isDevice (s.physAddr va k) = false → t.readByte (s.physAddr va k) = bytes k
  untouched : ∀ pa, (∀ k, k < n → pa ≠ s.physAddr va k) ∨ s.isDevice pa = true → t.readByte pa = s.readByte pa
  device : t.deviceLog =
    if s.touchesDevice va n then
      .write (((List.range n).filter fun k => s.isDevice (s.physAddr va k)).map fun k => (s.physAddr va k, bytes k)) ::
        s.deviceLog
    else s.deviceLog
  stored : ∀ pa, pa ∈ t.stored ↔ pa ∈ s.stored ∨ ∃ k, k < n ∧ pa = s.physAddr va k
  regs : s.SameRegs t
  hiLo : s.SameHiLo t
  cp0 : s.SameCp0 t
  setting : s.SameSetting t

/-- Exception entry (60_exceptions.md R240 to R243) with the code `code`; `bad` is the faulting address of an address
error. Everything the rule does not list is as before. -/
structure State.EntersException (s t : State) (code : BitVec 5) (bad : Option Word) : Prop where
  excCode : t.excCode = code
  level : t.exl = true
  vector : t.pc = 0xBFC00380#32 ∧ t.npc = 0xBFC00384#32 ∧ t.ds = false
  saved : s.exl = false → s.ds = false → t.epc = s.pc ∧ t.bd = false
  savedInSlot : s.exl = false → s.ds = true → t.epc = s.pc - 4 ∧ t.bd = true
  kept : s.exl = true → t.epc = s.epc ∧ t.bd = s.bd
  badVAddr : t.badVAddr = bad.getD s.badVAddr
  status : t.im = s.im ∧ t.ie = s.ie
  cause : t.ti = s.ti ∧ t.ipSw = s.ipSw
  timer : t.count = s.count ∧ t.compare = s.compare
  regs : s.SameRegs t
  hiLo : s.SameHiLo t
  memory : s.SameMemory t
  bus : s.SameBus t
  sampled : t.hwInt = s.hwInt ∧ t.tiRace = s.tiRace ∧ t.deviceData = s.deviceData ∧ t.deviceFetch = s.deviceFetch ∧
    t.inputs = s.inputs ∧ t.moment = s.moment ∧ t.cfg = s.cfg
  held : code ≠ 0#5 → t.intHeld = s.intHeld

/-- Does interrupt line n request (60_exceptions.md R231 to R234)? -/
def State.lineActive (s : State) (n : Nat) : Bool :=
  if n < 2 then s.ipSw.getLsbD n
  else if n < 7 then s.hwInt.getLsbD (n - 2)
  else s.hwInt.getLsbD 5 || s.ti

/-- A run of `n` steps that meets no fault and no refusal. -/
def State.RunsSafely (s : State) (n : Nat) : Prop := ∃ t, Host.Core.run Sys2Proof.core n s = .next t

end Sys2Proof.Machine
end

