-- ==== Sys2Proof/Certificates/Slice0/Obligations.lean ====
section
/-! DEFINITION. The statements about the model. A `let va` is the virtual address of a load or store as its meaning
computes it. Each statement about an instruction says that it completes, its result and its frame. -/

open Sys2Proof Sys2Proof.Machine

/-! ### Encoding -/

/-- 30_encoding.md R90 to R95, R107: every instruction has four bytes, and they decode to it. -/
def Obligations.DecodeEncodeAgree : Prop :=
  ∀ i : Instr, (encodeBytes i).length = 4 ∧ decodeBytes (encodeBytes i) = .instr i

/-- 30_encoding.md R107, R109: a word that decodes to an instruction is that instruction's one encoding; a reserved-field
word has all the one bits of its instruction's encoding, and more. -/
def Obligations.DecodedWordIsTheEncoding : Prop :=
  ∀ (w : Word) (i : Instr),
    (decode w = .instr i → encode i = w) ∧
    (decode w = .reservedField i → encode i ≠ w ∧ encode i &&& w = encode i)

/-- 30_encoding.md R103 to R106, R108: exactly these words are none of the 61 instructions. -/
def Obligations.UnimplementedWords : Prop :=
  ∀ w : Word, decode w = .unimplemented ↔
    (let op := w.toNat / 2 ^ 26
     let rs := w.toNat / 2 ^ 21 % 32
     let rt := w.toNat / 2 ^ 16 % 32
     let funct := w.toNat % 64
     op ∉ [0, 1, 2, 3, 4, 5, 6, 7, 8, 9, 10, 11, 12, 13, 14, 15, 16, 32, 33, 34, 35, 36, 37, 38, 40, 41, 42, 43, 46] ∨
     (op = 0 ∧ funct ∉ [0, 2, 3, 4, 6, 7, 8, 9, 12, 13, 16, 17, 18, 19, 24, 25, 26, 27, 32, 33, 34, 35, 36, 37, 38, 39,
       42, 43]) ∨
     (op = 1 ∧ rt ∉ [0, 1, 16, 17]) ∨
     (op = 16 ∧ rs ≠ 0 ∧ rs ≠ 4 ∧ ¬ (16 ≤ rs ∧ funct = 24)))

/-- Words of each format written out from 30_encoding.md decode to their instructions. -/
def Obligations.WrittenOutWordsDecode : Prop :=
  decode 0b000000_00001_00010_00011_00000_100000#32 = .instr (.add 3 1 2) ∧
  decode 0b001000_00001_00010_1111111111111111#32 = .instr (.addi 2 1 0xFFFF) ∧
  decode 0b001111_00000_00001_1011111111000000#32 = .instr (.lui 1 0xBFC0) ∧
  decode 0b000000_00000_00010_00011_00100_000011#32 = .instr (.sra 3 2 4) ∧
  decode 0b000000_00001_00010_00000_00000_011010#32 = .instr (.div 1 2) ∧
  decode 0b000001_00001_10001_0000000000000100#32 = .instr (.bgezal 1 4) ∧
  decode 0b000010_11111100000000000100000000#32 = .instr (.j 0x3F00100) ∧
  decode 0b101110_00001_00010_0000000000000100#32 = .instr (.swr 2 1 4) ∧
  decode 0b000000_00000000000000000001_001101#32 = .instr (.brk 1) ∧
  decode 0b010000_00100_00010_01100_00000000_000#32 = .instr (.mtc0 2 12 0) ∧
  decode 0b010000_1_0000000000000000000_011000#32 = .instr .eret

/-! ### The step -/

/-- 10_state.md R30: with no interrupt taken, an aligned pc, memory or a device at pc and a fetch that sees memory, the step
is the decoded instruction's meaning, in the state after sampling and after the fetch. The sampling changes nothing but what
is listed (the timer: `TimerMatch`), and the fetch changes only the log of the devices it read (20_memory.md R74, R77). -/
def Obligations.StepRunsTheDecodedInstruction : Prop :=
  ∀ (s : State) (i : Instr), s.sample.interruptTaken s.input.holdOff = false → s.pc.toNat % 4 = 0 →
    s.backed s.pc 4 = true → s.fetchSees = true → decodeBytes s.sample.fetchBytes = .instr i →
      step s = exec i s.atExecute ∧
      s.atExecute =
        { s with
          count := s.sample.count
          ti := s.sample.ti
          hwInt := s.input.pins
          tiRace := s.input.tiRace
          deviceData := s.input.deviceData
          deviceFetch := s.input.deviceFetch
          inputs := s.inputs.tail
          moment := s.moment + 1
          intHeld := if s.sample.interruptPending = true then s.intHeld + 1 else 0
          deviceLog :=
            if s.touchesDevice s.pc 4 = true then .read ((s.physAddrs s.pc 4).filter s.isDevice) :: s.deviceLog
            else s.deviceLog }

/-- 20_memory.md R74, R83 (the spec's decision D16, log 14): a word that SW stores to ordinary memory at the next address is
the instruction the next step runs, where IFETCH_COHERENT is true; where it is false, that step refuses the fetch. -/
def Obligations.StoredWordIsTheNextInstruction : Prop :=
  ∀ (rt base : RegNum) (offset : BitVec 16) (s : State) (i : Instr),
    let va := s.dataAddr base offset
    va.toNat % 4 = 0 → s.ordinary va 4 = true → s.npc = va → decode (s.reg rt) = .instr i →
      ∃ t, exec (.sw rt base offset) s = .next t ∧ (t.sample.interruptTaken t.input.holdOff = false →
        step t = if s.cfg.ifetchCoherent = true then exec i t.atExecute else .refused .incoherentFetch)

/-- 60_exceptions.md R229: a fetched word that is none of the 61 instructions raises Reserved Instruction. -/
def Obligations.UnimplementedWordTraps : Prop :=
  ∀ s : State, s.sample.interruptTaken s.input.holdOff = false → s.pc.toNat % 4 = 0 → s.backed s.pc 4 = true →
    s.fetchSees = true → decodeBytes s.sample.fetchBytes = .unimplemented →
      ∃ t, step s = .next t ∧ s.atExecute.EntersException t 0x0a#5 none

/-- 30_encoding.md R109 (log 5): the three policies for a word with a non-zero must-be-zero field. -/
def Obligations.ReservedFieldPolicies : Prop :=
  ∀ (s : State) (i : Instr), s.sample.interruptTaken s.input.holdOff = false → s.pc.toNat % 4 = 0 →
    s.backed s.pc 4 = true → s.fetchSees = true → decodeBytes s.sample.fetchBytes = .reservedField i →
      (s.cfg.reservedFields = .refuse → step s = .refused .reservedField) ∧
      (s.cfg.reservedFields = .ri → ∃ t, step s = .next t ∧ s.atExecute.EntersException t 0x0a#5 none) ∧
      (s.cfg.reservedFields = .ignore → step s = exec i s.atExecute)

/-- 60_exceptions.md R222: a misaligned pc raises AdEL at the fetch. In a state that meets the invariant the victim is in
no delay slot, so EPC is the misaligned pc and BD is 0. -/
def Obligations.MisalignedFetchTraps : Prop :=
  ∀ s : State, s.Inv → s.sample.interruptTaken s.input.holdOff = false → s.pc.toNat % 4 ≠ 0 →
    ∃ t, step s = .next t ∧ s.sample.noteHeld.EntersException t 0x04#5 (some s.pc) ∧ t.badVAddr = s.pc ∧
      (s.exl = false → t.epc = s.pc ∧ t.bd = false)

/-! ### Interrupts and the timer -/

/-- 60_exceptions.md R234 to R236, R240 (logs 11, 20, 23): an unmasked active line with IE 1 and EXL 0 takes the interrupt,
at once unless the implementation holds it back, and in any case when INT_LATENCY instructions have passed. -/
def Obligations.InterruptIsTaken : Prop :=
  ∀ (s : State) (n : Nat), n < 8 → s.ie = true → s.exl = false → s.sample.lineActive n = true → s.im.getLsbD n = true →
    s.input.holdOff = false ∨ s.cfg.intLatency ≤ s.intHeld →
      ∃ t, step s = .next t ∧ s.sample.EntersException t 0x00#5 none

/-- 60_exceptions.md R235, R242: with IE 0, or EXL 1, or no unmasked active line, no interrupt is taken, whatever the
implementation's latency. -/
def Obligations.InterruptIsMasked : Prop :=
  ∀ s : State, s.ie = false ∨ s.exl = true ∨ (∀ n, n < 8 → (s.sample.lineActive n && s.im.getLsbD n) = false) →
    s.sample.interruptTaken s.input.holdOff = false

/-- 60_exceptions.md R250, R251: Count advances by the ticks of the step, and Cause.TI is set exactly when one of the
single increments made Count equal Compare, and otherwise kept. -/
def Obligations.TimerMatch : Prop :=
  ∀ s : State, s.sample.count = BitVec.ofNat 32 (s.count.toNat + s.input.ticks) ∧ s.sample.compare = s.compare ∧
    (s.sample.ti = true ↔
      s.ti = true ∨ ∃ k, 1 ≤ k ∧ k ≤ s.input.ticks ∧ s.compare = BitVec.ofNat 32 (s.count.toNat + k))

/-! ### Reset and invariants -/

/-- The state after reset meets the invariant, and its SEGMAP is a legal one. That npc is pc + 4 is 10_state.md R54; that
ExcCode is one of the seven codes rests on the model's reset value 0 (DESIGN CHOICE, log 1), and the last clause on the
default SEGMAP and PABITS (PRESUMED, log 4). -/
def Obligations.ResetMeetsTheInvariant : Prop :=
  State.reset.Inv ∧ platformOk State.reset.cfg = true

/-- 10_state.md R54: the reset values the spec gives; `pc` itself is the model's parameter (log 2). -/
def Obligations.ResetValues : Prop :=
  State.reset.reg 0#5 = 0#32 ∧ State.reset.ds = false ∧ State.reset.npc = State.reset.pc + 4 ∧
  State.reset.status &&& 0xFFFF00FF#32 = 0x00400000#32 ∧ State.reset.cause &&& 0xFFFFFF83#32 = 0#32

/-- From every state that meets the invariant a step leads to a state that meets it: outside a delay slot npc is pc + 4
(44_branch_jump.md R164), a delay slot is aligned (60_exceptions.md R222), ExcCode is one of the seven codes (R220), the
slot of r0 holds 0, the memory and the list of the addresses stored to keep their canonical forms, and with a legal SEGMAP
memory lists physical addresses of PABITS bits only (20_memory.md R68). -/
def Obligations.StepKeepsTheInvariant : Prop :=
  ∀ s t : State, s.Inv → step s = .next t → t.Inv

/-- 00_scope.md R8 (log 3): no step changes a parameter. -/
def Obligations.ParametersNeverChange : Prop :=
  ∀ s t : State, step s = .next t → t.cfg = s.cfg

/-! ### Rules over all instructions -/

/-- 10_state.md R22: r0 reads 0 in every state, and nothing written to it is kept. -/
def Obligations.ZeroRegister : Prop :=
  (∀ s : State, s.reg 0#5 = 0#32) ∧ (∀ (s : State) (v : Word), s.setReg 0#5 v = s)

/-- 10_state.md R28: how every instruction that gives a next state ends. -/
def Obligations.InstructionEndings : Prop :=
  ∀ (i : Instr) (s t : State), exec i s = .next t →
    (isBranchOrJump i = false ∧ i ≠ .eret ∧ s.GoesOn t) ∨
    (isBranchOrJump i = true ∧ ∃ after, s.TransfersTo t after) ∨
    (i = .eret ∧ t.pc = s.epc ∧ t.npc = s.epc + 4 ∧ t.ds = false) ∨
    (isBranchOrJump i = false ∧ t.pc = 0xBFC00380#32 ∧ t.npc = 0xBFC00384#32 ∧ t.ds = false ∧ t.exl = true)

/-- 10_state.md R35: BadVAddr is written by an address error and by nothing else. -/
def Obligations.BadVAddrOnlyByAddressErrors : Prop :=
  ∀ s t : State, step s = .next t → t.badVAddr ≠ s.badVAddr →
    (t.excCode = 0x04#5 ∨ t.excCode = 0x05#5) ∧ t.exl = true ∧ t.pc = 0xBFC00380#32

/-- 10_state.md R25: HI and LO are written by these instructions and by no other. -/
def Obligations.HiLoOnlyByTheirInstructions : Prop :=
  ∀ (i : Instr) (s t : State), exec i s = .next t →
    (t.hi ≠ s.hi → ∃ rs rt, i ∈ [Instr.mult rs rt, .multu rs rt, .div rs rt, .divu rs rt, .mthi rs]) ∧
    (t.lo ≠ s.lo → ∃ rs rt, i ∈ [Instr.mult rs rt, .multu rs rt, .div rs rt, .divu rs rt, .mtlo rs])

/-- 10_state.md R37, R40, R42, R46, R48; 48_privileged.md R214: which instructions change the fields that exceptions leave
alone. -/
def Obligations.SoftwareFieldsOnlyByMtc0 : Prop :=
  ∀ (i : Instr) (s t : State), exec i s = .next t →
    (t.im ≠ s.im ∨ t.ie ≠ s.ie → ∃ rt, i = .mtc0 rt 12 0) ∧
    (t.compare ≠ s.compare → ∃ rt, i = .mtc0 rt 11 0) ∧
    (t.count ≠ s.count → ∃ rt, i = .mtc0 rt 9 0) ∧
    (t.ipSw ≠ s.ipSw → ∃ rt, i = .mtc0 rt 13 0) ∧
    (t.ti ≠ s.ti → ∃ rt, i = .mtc0 rt 11 0 ∨ i = .mtc0 rt 9 0)

/-- 10_state.md R41: EXL is set by exception entry, cleared by ERET, and else changed by MTC0 to Status only. -/
def Obligations.ExceptionLevelChanges : Prop :=
  ∀ (i : Instr) (s t : State), exec i s = .next t → t.exl ≠ s.exl →
    (t.exl = true ∧ t.pc = 0xBFC00380#32) ∨ (t.exl = false ∧ i = .eret) ∨ ∃ rt, i = .mtc0 rt 12 0

/-- 60_exceptions.md R242 (log 22): with EXL 1 no exception writes EPC or BD; only MTC0 writes EPC then. -/
def Obligations.ReturnAddressFrozenInHandler : Prop :=
  ∀ (i : Instr) (s t : State), exec i s = .next t → s.exl = true →
    t.bd = s.bd ∧ (t.epc ≠ s.epc → ∃ rt, i = .mtc0 rt 14 0)

/-! ### Taking an exception and returning -/

/-- 60_exceptions.md R240: exception entry does what the rule lists and nothing else, with the code of R220. -/
def Obligations.ExceptionEntry : Prop :=
  ∀ (s : State) (bad : Option Word),
    s.EntersException (s.enterException .int none) 0x00#5 none ∧
    s.EntersException (s.enterException .adEL bad) 0x04#5 bad ∧
    s.EntersException (s.enterException .adES bad) 0x05#5 bad ∧
    s.EntersException (s.enterException .sys none) 0x08#5 none ∧
    s.EntersException (s.enterException .bp none) 0x09#5 none ∧
    s.EntersException (s.enterException .ri none) 0x0a#5 none ∧
    s.EntersException (s.enterException .ov none) 0x0c#5 none

/-- 60_exceptions.md R226, R227: SYSCALL and BREAK take their exceptions. That they do so with every code field rests on
30_encoding.md R110 and 46_trap.md R188 (decision D24; PRESUMED, log 18). -/
def Obligations.TrapInstructions : Prop :=
  ∀ (code : BitVec 20) (s : State),
    (∃ t, exec (.syscall code) s = .next t ∧ s.EntersException t 0x08#5 none) ∧
    (∃ t, exec (.brk code) s = .next t ∧ s.EntersException t 0x09#5 none)

/-- 48_privileged.md R210 (log 19): ERET outside a delay slot. -/
def Obligations.EretReturns : Prop :=
  ∀ s : State, s.ds = false →
    exec .eret s = .next { s with pc := s.epc, npc := s.epc + 4, ds := false, exl := false }

/-- 60_exceptions.md R245, R241: SYSCALL or BREAK, with every code field (PRESUMED, log 18), taken outside a handler, and
ERET (which clears EXL and has no delay slot by decision, log 19) at once, with no tick and no sample between: control is
back at the trap, or at the branch before it, and of the state only EPC, Cause.BD and Cause.ExcCode have changed. -/
def Obligations.TrapAndReturn : Prop :=
  ∀ (code : BitVec 20) (s : State), s.exl = false →
    ∀ trap excCode, (trap = Instr.syscall code ∧ excCode = 0x08#5) ∨ (trap = Instr.brk code ∧ excCode = 0x09#5) →
      ∃ t u, exec trap s = .next t ∧ exec .eret t = .next u ∧
        u.pc = (if s.ds then s.pc - 4 else s.pc) ∧ u.npc = u.pc + 4 ∧ u.ds = false ∧
        u.epc = u.pc ∧ u.bd = s.ds ∧ u.excCode = excCode ∧
        u.exl = s.exl ∧ u.ie = s.ie ∧ u.im = s.im ∧ u.badVAddr = s.badVAddr ∧ u.count = s.count ∧
        u.compare = s.compare ∧ u.ti = s.ti ∧ u.ipSw = s.ipSw ∧ s.SameRegs u ∧ s.SameHiLo u ∧ s.SameMemory u ∧
        s.SameBus u ∧ s.SameSetting u

/-! ### Arithmetic -/

/-- 41_arithmetic.md R121, R122, R125: where the exact signed result fits in 32 bits it is written. -/
def Obligations.CheckedArithmeticInRange : Prop :=
  ∀ s : State,
    (∀ rd rs rt, -2 ^ 31 ≤ (s.reg rs).toInt + (s.reg rt).toInt → (s.reg rs).toInt + (s.reg rt).toInt < 2 ^ 31 →
      ∃ t, exec (.add rd rs rt) s = .next t ∧
        s.WroteReg t rd (BitVec.ofInt 32 ((s.reg rs).toInt + (s.reg rt).toInt))) ∧
    (∀ rt rs (imm : BitVec 16), -2 ^ 31 ≤ (s.reg rs).toInt + imm.toInt → (s.reg rs).toInt + imm.toInt < 2 ^ 31 →
      ∃ t, exec (.addi rt rs imm) s = .next t ∧ s.WroteReg t rt (BitVec.ofInt 32 ((s.reg rs).toInt + imm.toInt))) ∧
    (∀ rd rs rt, -2 ^ 31 ≤ (s.reg rs).toInt - (s.reg rt).toInt → (s.reg rs).toInt - (s.reg rt).toInt < 2 ^ 31 →
      ∃ t, exec (.sub rd rs rt) s = .next t ∧
        s.WroteReg t rd (BitVec.ofInt 32 ((s.reg rs).toInt - (s.reg rt).toInt)))

/-- 60_exceptions.md R225: where it does not fit, Integer Overflow is taken; no other instruction raises it. -/
def Obligations.OverflowTraps : Prop :=
  (∀ s : State,
    (∀ rd rs rt, (s.reg rs).toInt + (s.reg rt).toInt < -2 ^ 31 ∨ 2 ^ 31 ≤ (s.reg rs).toInt + (s.reg rt).toInt →
      ∃ t, exec (.add rd rs rt) s = .next t ∧ s.EntersException t 0x0c#5 none) ∧
    (∀ rt rs (imm : BitVec 16), (s.reg rs).toInt + imm.toInt < -2 ^ 31 ∨ 2 ^ 31 ≤ (s.reg rs).toInt + imm.toInt →
      ∃ t, exec (.addi rt rs imm) s = .next t ∧ s.EntersException t 0x0c#5 none) ∧
    (∀ rd rs rt, (s.reg rs).toInt - (s.reg rt).toInt < -2 ^ 31 ∨ 2 ^ 31 ≤ (s.reg rs).toInt - (s.reg rt).toInt →
      ∃ t, exec (.sub rd rs rt) s = .next t ∧ s.EntersException t 0x0c#5 none)) ∧
  (∀ (i : Instr) (s t : State), exec i s = .next t → s.excCode ≠ 0x0c#5 → t.excCode = 0x0c#5 →
    ∃ (a b c : RegNum) (imm : BitVec 16), i = .add a b c ∨ i = .addi a b imm ∨ i = .sub a b c)

/-- 41_arithmetic.md R123, R124, R126: ADDU, ADDIU and SUBU, with their encodings. -/
def Obligations.WrappingArithmetic : Prop :=
  (∀ (rd rs rt : RegNum) (s : State),
    decode (0b000000#6 ++ rs ++ rt ++ rd ++ 0b00000#5 ++ 0b100001#6) = .instr (.addu rd rs rt) ∧
    ∃ t, exec (.addu rd rs rt) s = .next t ∧
      s.WroteReg t rd (BitVec.ofNat 32 ((s.reg rs).toNat + (s.reg rt).toNat))) ∧
  (∀ (rt rs : RegNum) (imm : BitVec 16) (s : State),
    decode (0b001001#6 ++ rs ++ rt ++ imm) = .instr (.addiu rt rs imm) ∧
    ∃ t, exec (.addiu rt rs imm) s = .next t ∧ s.WroteReg t rt (BitVec.ofInt 32 ((s.reg rs).toNat + imm.toInt))) ∧
  (∀ (rd rs rt : RegNum) (s : State),
    decode (0b000000#6 ++ rs ++ rt ++ rd ++ 0b00000#5 ++ 0b100011#6) = .instr (.subu rd rs rt) ∧
    ∃ t, exec (.subu rd rs rt) s = .next t ∧
      s.WroteReg t rd (BitVec.ofInt 32 ((s.reg rs).toNat - (s.reg rt).toNat : Int)))

/-- 41_arithmetic.md R127 to R130: 1 or 0 by the signed or the unsigned comparison. -/
def Obligations.SetOnLessThan : Prop :=
  ∀ s : State,
    (∀ rd rs rt, ∃ t, exec (.slt rd rs rt) s = .next t ∧
      s.WroteReg t rd (if (s.reg rs).toInt < (s.reg rt).toInt then 0x00000001#32 else 0x00000000#32)) ∧
    (∀ rt rs (imm : BitVec 16), ∃ t, exec (.slti rt rs imm) s = .next t ∧
      s.WroteReg t rt (if (s.reg rs).toInt < imm.toInt then 0x00000001#32 else 0x00000000#32)) ∧
    (∀ rd rs rt, ∃ t, exec (.sltu rd rs rt) s = .next t ∧
      s.WroteReg t rd (if (s.reg rs).toNat < (s.reg rt).toNat then 0x00000001#32 else 0x00000000#32)) ∧
    (∀ rt rs (imm : BitVec 16), ∃ t, exec (.sltiu rt rs imm) s = .next t ∧
      s.WroteReg t rt (if ((s.reg rs).toNat : Int) < imm.toInt % 2 ^ 32 then 0x00000001#32 else 0x00000000#32))

/-- 41_arithmetic.md R134, R135: HI and LO together are the exact product, signed or unsigned; with the encodings. -/
def Obligations.Multiplication : Prop :=
  ∀ (rs rt : RegNum) (s : State),
    (decode (0b000000#6 ++ rs ++ rt ++ 0b00000#5 ++ 0b00000#5 ++ 0b011000#6) = .instr (.mult rs rt) ∧
      ∃ t, exec (.mult rs rt) s = .next t ∧ s.WroteHiLo t t.hi t.lo ∧
        (t.hi ++ t.lo).toInt = (s.reg rs).toInt * (s.reg rt).toInt) ∧
    (decode (0b000000#6 ++ rs ++ rt ++ 0b00000#5 ++ 0b00000#5 ++ 0b011001#6) = .instr (.multu rs rt) ∧
      ∃ t, exec (.multu rs rt) s = .next t ∧ s.WroteHiLo t t.hi t.lo ∧
        (t.hi ++ t.lo).toNat = (s.reg rs).toNat * (s.reg rt).toNat)

/-- 41_arithmetic.md R131 to R133 (rounding: log 24): LO is the quotient and HI the remainder, smaller than the divisor and
with the dividend's sign. -/
def Obligations.Division : Prop :=
  ∀ (rs rt : RegNum) (s : State), s.reg rt ≠ 0#32 →
    (¬ (s.reg rs = 0x80000000#32 ∧ s.reg rt = 0xFFFFFFFF#32) →
      ∃ t, exec (.div rs rt) s = .next t ∧ s.WroteHiLo t t.hi t.lo ∧
        (s.reg rs).toInt = t.lo.toInt * (s.reg rt).toInt + t.hi.toInt ∧
        t.hi.toInt.natAbs < (s.reg rt).toInt.natAbs ∧
        (0 ≤ (s.reg rs).toInt → 0 ≤ t.hi.toInt) ∧ ((s.reg rs).toInt ≤ 0 → t.hi.toInt ≤ 0)) ∧
    (∃ t, exec (.divu rs rt) s = .next t ∧ s.WroteHiLo t t.hi t.lo ∧
      (s.reg rs).toNat = t.lo.toNat * (s.reg rt).toNat + t.hi.toNat ∧ t.hi.toNat < (s.reg rt).toNat)

/-- 41_arithmetic.md R137 (log 16): the divisions whose result the spec leaves open complete; HI and LO hold the free
value. -/
def Obligations.DivisionCorners : Prop :=
  ∀ (rs rt : RegNum) (s : State),
    (s.reg rt = 0#32 ∨ (s.reg rs = 0x80000000#32 ∧ s.reg rt = 0xFFFFFFFF#32) →
      ∃ t, exec (.div rs rt) s = .next t ∧
        s.WroteHiLo t (Config.divCorner .div (s.reg rs) (s.reg rt)).hi (Config.divCorner .div (s.reg rs) (s.reg rt)).lo) ∧
    (s.reg rt = 0#32 →
      ∃ t, exec (.divu rs rt) s = .next t ∧
        s.WroteHiLo t (Config.divCorner .divu (s.reg rs) (s.reg rt)).hi (Config.divCorner .divu (s.reg rs) (s.reg rt)).lo)

/-! ### Logic and shifts -/

/-- 42_logic.md R140 to R146: each bit of the result, and the encodings. -/
def Obligations.LogicalOperations : Prop :=
  (∀ (rd rs rt : RegNum) (s : State),
    (decode (0b000000#6 ++ rs ++ rt ++ rd ++ 0b00000#5 ++ 0b100100#6) = .instr (.and rd rs rt) ∧
      ∃ t v, exec (.and rd rs rt) s = .next t ∧ s.WroteReg t rd v ∧
        ∀ n, n < 32 → v.getLsbD n = ((s.reg rs).getLsbD n && (s.reg rt).getLsbD n)) ∧
    (decode (0b000000#6 ++ rs ++ rt ++ rd ++ 0b00000#5 ++ 0b100101#6) = .instr (.or rd rs rt) ∧
      ∃ t v, exec (.or rd rs rt) s = .next t ∧ s.WroteReg t rd v ∧
        ∀ n, n < 32 → v.getLsbD n = ((s.reg rs).getLsbD n || (s.reg rt).getLsbD n)) ∧
    (decode (0b000000#6 ++ rs ++ rt ++ rd ++ 0b00000#5 ++ 0b100110#6) = .instr (.xor rd rs rt) ∧
      ∃ t v, exec (.xor rd rs rt) s = .next t ∧ s.WroteReg t rd v ∧
        ∀ n, n < 32 → v.getLsbD n = ((s.reg rs).getLsbD n ^^ (s.reg rt).getLsbD n)) ∧
    (decode (0b000000#6 ++ rs ++ rt ++ rd ++ 0b00000#5 ++ 0b100111#6) = .instr (.nor rd rs rt) ∧
      ∃ t v, exec (.nor rd rs rt) s = .next t ∧ s.WroteReg t rd v ∧
        ∀ n, n < 32 → v.getLsbD n = (!(s.reg rs).getLsbD n && !(s.reg rt).getLsbD n))) ∧
  (∀ (rt rs : RegNum) (imm : BitVec 16) (s : State),
    (decode (0b001100#6 ++ rs ++ rt ++ imm) = .instr (.andi rt rs imm) ∧
      ∃ t v, exec (.andi rt rs imm) s = .next t ∧ s.WroteReg t rt v ∧
        ∀ n, n < 32 → v.getLsbD n = (decide (n < 16) && (s.reg rs).getLsbD n && imm.getLsbD n)) ∧
    (decode (0b001101#6 ++ rs ++ rt ++ imm) = .instr (.ori rt rs imm) ∧
      ∃ t v, exec (.ori rt rs imm) s = .next t ∧ s.WroteReg t rt v ∧
        ∀ n, n < 32 → v.getLsbD n = ((s.reg rs).getLsbD n || decide (n < 16) && imm.getLsbD n)) ∧
    (decode (0b001111#6 ++ 0b00000#5 ++ rt ++ imm) = .instr (.lui rt imm) ∧
      ∃ t v, exec (.lui rt imm) s = .next t ∧ s.WroteReg t rt v ∧ v.toNat = imm.toNat * 2 ^ 16))

/-- 42_logic.md R147: XORI, bit by bit. -/
def Obligations.ExclusiveOrImmediate : Prop :=
  ∀ (rt rs : RegNum) (imm : BitVec 16) (s : State), ∃ t v, exec (.xori rt rs imm) s = .next t ∧ s.WroteReg t rt v ∧
    ∀ n, n < 32 → v.getLsbD n = ((s.reg rs).getLsbD n ^^ (decide (n < 16) && imm.getLsbD n))

/-- 43_shift.md R150 to R156: shifts by the sa field and by the low five bits of a register, as arithmetic on the value. -/
def Obligations.Shifts : Prop :=
  ∀ (rd rt rs : RegNum) (sa : BitVec 5) (s : State),
    (∃ t v, exec (.sll rd rt sa) s = .next t ∧ s.WroteReg t rd v ∧
      v.toNat = (s.reg rt).toNat * 2 ^ sa.toNat % 2 ^ 32) ∧
    (∃ t v, exec (.srl rd rt sa) s = .next t ∧ s.WroteReg t rd v ∧ v.toNat = (s.reg rt).toNat / 2 ^ sa.toNat) ∧
    (∃ t v, exec (.sra rd rt sa) s = .next t ∧ s.WroteReg t rd v ∧ v.toInt = (s.reg rt).toInt / 2 ^ sa.toNat) ∧
    (∃ t v, exec (.sllv rd rt rs) s = .next t ∧ s.WroteReg t rd v ∧
      v.toNat = (s.reg rt).toNat * 2 ^ ((s.reg rs).toNat % 32) % 2 ^ 32) ∧
    (∃ t v, exec (.srlv rd rt rs) s = .next t ∧ s.WroteReg t rd v ∧
      v.toNat = (s.reg rt).toNat / 2 ^ ((s.reg rs).toNat % 32)) ∧
    (∃ t v, exec (.srav rd rt rs) s = .next t ∧ s.WroteReg t rd v ∧
      v.toInt = (s.reg rt).toInt / 2 ^ ((s.reg rs).toNat % 32))

/-! ### HI and LO moves -/

/-- 45_move_hilo.md R180 to R183. -/
def Obligations.HiLoMoves : Prop :=
  ∀ (r : RegNum) (s : State),
    (∃ t, exec (.mfhi r) s = .next t ∧ s.WroteReg t r s.hi) ∧
    (∃ t, exec (.mflo r) s = .next t ∧ s.WroteReg t r s.lo) ∧
    (∃ t, exec (.mthi r) s = .next t ∧ s.WroteHiLo t (s.reg r) s.lo) ∧
    (∃ t, exec (.mtlo r) s = .next t ∧ s.WroteHiLo t s.hi (s.reg r))

/-! ### Branches and jumps -/

/-- 44_branch_jump.md R160, R161, R167 to R172: outside a delay slot, the target relative to pc + 4 in words, or the
instruction after the delay slot. -/
def Obligations.ConditionalBranches : Prop :=
  ∀ (rs rt : RegNum) (offset : BitVec 16) (s : State), s.ds = false →
    let target := s.pc + 4 + BitVec.ofInt 32 (4 * offset.toInt)
    (∃ t, exec (.beq rs rt offset) s = .next t ∧ s.Branched t (if s.reg rs = s.reg rt then target else s.npc + 4)) ∧
    (∃ t, exec (.bne rs rt offset) s = .next t ∧ s.Branched t (if s.reg rs = s.reg rt then s.npc + 4 else target)) ∧
    (∃ t, exec (.bgez rs offset) s = .next t ∧ s.Branched t (if 0 ≤ (s.reg rs).toInt then target else s.npc + 4)) ∧
    (∃ t, exec (.bgtz rs offset) s = .next t ∧ s.Branched t (if 0 < (s.reg rs).toInt then target else s.npc + 4)) ∧
    (∃ t, exec (.blez rs offset) s = .next t ∧ s.Branched t (if (s.reg rs).toInt ≤ 0 then target else s.npc + 4)) ∧
    (∃ t, exec (.bltz rs offset) s = .next t ∧ s.Branched t (if (s.reg rs).toInt < 0 then target else s.npc + 4))

/-- 44_branch_jump.md R173, R174: r31 is written, taken or not, and the condition is that of the old register. -/
def Obligations.LinkingBranches : Prop :=
  ∀ (rs : RegNum) (offset : BitVec 16) (s : State), s.ds = false →
    let target := s.pc + 4 + BitVec.ofInt 32 (4 * offset.toInt)
    (∃ t, exec (.bgezal rs offset) s = .next t ∧
      s.Linked t 31#5 (if 0 ≤ (s.reg rs).toInt then target else s.npc + 4)) ∧
    (∃ t, exec (.bltzal rs offset) s = .next t ∧
      s.Linked t 31#5 (if (s.reg rs).toInt < 0 then target else s.npc + 4))

/-- 44_branch_jump.md R175 to R178: the region of the delay slot and the index, or the register read before the link is
written. -/
def Obligations.Jumps : Prop :=
  ∀ s : State, s.ds = false →
    (∀ index : BitVec 26,
      let target := BitVec.ofNat 32 ((s.pc + 4).toNat / 2 ^ 28 * 2 ^ 28 + index.toNat * 4)
      (∃ t, exec (.j index) s = .next t ∧ s.Branched t target) ∧
      (∃ t, exec (.jal index) s = .next t ∧ s.Linked t 31#5 target)) ∧
    (∀ rd rs,
      (∃ t, exec (.jr rs) s = .next t ∧ s.Branched t (s.reg rs)) ∧
      (∃ t, exec (.jalr rd rs) s = .next t ∧ s.Linked t rd (s.reg rs)))

/-- 44_branch_jump.md R164 (log 7): a branch, a jump or ERET in a delay slot is refused. -/
def Obligations.TransferInDelaySlotRefused : Prop :=
  ∀ (i : Instr) (s : State), s.ds = true → isBranchOrJump i = true ∨ i = .eret →
    exec i s = .refused .transferInDelaySlot

/-! ### Loads and stores -/

/-- 47_load_store.md R190; 20_memory.md R75: the virtual address, its position in its aligned word, and the aligned word. -/
def Obligations.EffectiveAddress : Prop :=
  ∀ (base : RegNum) (offset : BitVec 16) (s : State),
    let va := s.dataAddr base offset
    (va.toNat : Int) = ((s.reg base).toNat + offset.toInt) % 2 ^ 32 ∧ byteInWord va = va.toNat % 4 ∧
      (alignedWord va).toNat = va.toNat / 4 * 4

/-- 47_load_store.md R194 to R198: the bytes at the address, little-endian, extended as each rule says: what memory holds,
or what the device register there answers (20_memory.md R71, R77, log 35). -/
def Obligations.Loads : Prop :=
  ∀ (rt base : RegNum) (offset : BitVec 16) (s : State),
    let va := s.dataAddr base offset
    (s.backed va 1 = true →
      (∃ t, exec (.lb rt base offset) s = .next t ∧ s.Loaded t va 1 rt (BitVec.ofInt 32 (s.byteAt va 0).toInt)) ∧
      (∃ t, exec (.lbu rt base offset) s = .next t ∧ s.Loaded t va 1 rt (BitVec.ofNat 32 (s.byteAt va 0).toNat))) ∧
    (va.toNat % 2 = 0 → s.backed va 2 = true →
      (∃ t, exec (.lh rt base offset) s = .next t ∧
        s.Loaded t va 2 rt (BitVec.ofInt 32 ((s.byteAt va 1).toInt * 256 + (s.byteAt va 0).toNat))) ∧
      (∃ t, exec (.lhu rt base offset) s = .next t ∧
        s.Loaded t va 2 rt (BitVec.ofNat 32 ((s.byteAt va 1).toNat * 256 + (s.byteAt va 0).toNat)))) ∧
    (va.toNat % 4 = 0 → s.backed va 4 = true →
      ∃ t, exec (.lw rt base offset) s = .next t ∧
        s.Loaded t va 4 rt (s.byteAt va 3 ++ s.byteAt va 2 ++ s.byteAt va 1 ++ s.byteAt va 0))

/-- 47_load_store.md R199, R200 (90_conflicts.md C4): LWL and LWR by their tables; only the bytes merged are read (log 29). -/
def Obligations.LoadWordLeftAndRight : Prop :=
  ∀ (rt base : RegNum) (offset : BitVec 16) (s : State),
    let va := s.dataAddr base offset
    let A := alignedWord va
    let x := s.reg rt
    let lwlGives := fun (n : Nat) (v : Word) => ∃ t, exec (.lwl rt base offset) s = .next t ∧ s.Loaded t A n rt v
    let lwrGives := fun (n : Nat) (v : Word) => ∃ t, exec (.lwr rt base offset) s = .next t ∧ s.Loaded t va n rt v
    (va.toNat % 4 = 0 →
      (s.backed A 1 = true → lwlGives 1 (s.byteAt A 0 ++ x.extractLsb' 0 24)) ∧
      (s.backed va 4 = true → lwrGives 4 (s.byteAt va 3 ++ s.byteAt va 2 ++ s.byteAt va 1 ++ s.byteAt va 0))) ∧
    (va.toNat % 4 = 1 →
      (s.backed A 2 = true → lwlGives 2 (s.byteAt A 1 ++ s.byteAt A 0 ++ x.extractLsb' 0 16)) ∧
      (s.backed va 3 = true → lwrGives 3 (x.extractLsb' 24 8 ++ s.byteAt va 2 ++ s.byteAt va 1 ++ s.byteAt va 0))) ∧
    (va.toNat % 4 = 2 →
      (s.backed A 3 = true → lwlGives 3 (s.byteAt A 2 ++ s.byteAt A 1 ++ s.byteAt A 0 ++ x.extractLsb' 0 8)) ∧
      (s.backed va 2 = true → lwrGives 2 (x.extractLsb' 16 16 ++ s.byteAt va 1 ++ s.byteAt va 0))) ∧
    (va.toNat % 4 = 3 →
      (s.backed A 4 = true → lwlGives 4 (s.byteAt A 3 ++ s.byteAt A 2 ++ s.byteAt A 1 ++ s.byteAt A 0)) ∧
      (s.backed va 1 = true → lwrGives 1 (x.extractLsb' 8 24 ++ s.byteAt va 0)))

/-- 47_load_store.md R201 to R203: the low bytes of the register, little-endian, and no other byte; those of device
registers go to their devices (20_memory.md R71, R77, log 35). -/
def Obligations.Stores : Prop :=
  ∀ (rt base : RegNum) (offset : BitVec 16) (s : State),
    let va := s.dataAddr base offset
    (s.backed va 1 = true →
      ∃ t, exec (.sb rt base offset) s = .next t ∧ s.Stored t va 1 (byteOf (s.reg rt))) ∧
    (va.toNat % 2 = 0 → s.backed va 2 = true →
      ∃ t, exec (.sh rt base offset) s = .next t ∧ s.Stored t va 2 (byteOf (s.reg rt))) ∧
    (va.toNat % 4 = 0 → s.backed va 4 = true →
      ∃ t, exec (.sw rt base offset) s = .next t ∧ s.Stored t va 4 (byteOf (s.reg rt)))

/-- 47_load_store.md R204, R205 (90_conflicts.md C5): with k the address's place in its word, SWL stores the k+1 most
significant bytes of the register from the aligned address up to the address, SWR the 4-k least significant bytes from the
address up to the end of the word. -/
def Obligations.StoreWordLeftAndRight : Prop :=
  ∀ (rt base : RegNum) (offset : BitVec 16) (s : State),
    let va := s.dataAddr base offset
    let k := va.toNat % 4
    (s.backed (alignedWord va) (k + 1) = true →
      ∃ t, exec (.swl rt base offset) s = .next t ∧
        s.Stored t (alignedWord va) (k + 1) (fun j => byteOf (s.reg rt) (3 - k + j))) ∧
    (s.backed va (4 - k) = true →
      ∃ t, exec (.swr rt base offset) s = .next t ∧ s.Stored t va (4 - k) (byteOf (s.reg rt)))

/-- 60_exceptions.md R223: a misaligned data read raises AdEL; memory is not read and rt is not written. -/
def Obligations.MisalignedLoadTraps : Prop :=
  ∀ (rt base : RegNum) (offset : BitVec 16) (s : State),
    let va := s.dataAddr base offset
    (va.toNat % 4 ≠ 0 → ∃ t, exec (.lw rt base offset) s = .next t ∧ s.EntersException t 0x04#5 (some va)) ∧
    (va.toNat % 2 ≠ 0 → ∃ t, exec (.lh rt base offset) s = .next t ∧ s.EntersException t 0x04#5 (some va)) ∧
    (va.toNat % 2 ≠ 0 → ∃ t, exec (.lhu rt base offset) s = .next t ∧ s.EntersException t 0x04#5 (some va))

/-- 60_exceptions.md R224: a misaligned data write raises AdES; memory is not changed. -/
def Obligations.MisalignedStoreTraps : Prop :=
  ∀ (rt base : RegNum) (offset : BitVec 16) (s : State),
    let va := s.dataAddr base offset
    (va.toNat % 4 ≠ 0 → ∃ t, exec (.sw rt base offset) s = .next t ∧ s.EntersException t 0x05#5 (some va)) ∧
    (va.toNat % 2 ≠ 0 → ∃ t, exec (.sh rt base offset) s = .next t ∧ s.EntersException t 0x05#5 (some va))

/-- 20_memory.md R67: the byte accesses and the unaligned-word instructions take no exception at any address: where they
give a next state they went on, and on a platform of memory and devices they always do. -/
def Obligations.EveryAddressAccepted : Prop :=
  ∀ (i : Instr) (rt base : RegNum) (offset : BitVec 16) (s : State),
    i ∈ [Instr.lb rt base offset, .lbu rt base offset, .sb rt base offset, .lwl rt base offset, .lwr rt base offset,
      .swl rt base offset, .swr rt base offset] →
      (∀ t, exec i s = .next t → s.GoesOn t ∧ s.SameCp0 t) ∧
        ((∀ w ∈ s.cfg.windows, w.kind ≠ .unbacked) → ∃ t, exec i s = .next t)

/-- 20_memory.md R79 (log 13): a fetch, a load or a store that reaches an address with nothing behind it stops; and R83
(log 14): where IFETCH_COHERENT is false, so does a fetch from a byte the program has stored to. -/
def Obligations.AccessOutsideMemoryStops : Prop :=
  (∀ (s : State) (pa : Nat), s.sample.interruptTaken s.input.holdOff = false → s.pc.toNat % 4 = 0 →
    (firstUnbacked s.cfg (s.physAddrs s.pc 4) = some pa → step s = .fault (.unbacked pa)) ∧
    (s.backed s.pc 4 = true → s.cfg.ifetchCoherent = false → pa ∈ s.stored → pa ∈ s.physAddrs s.pc 4 →
      step s = .refused .incoherentFetch)) ∧
  ∀ (rt base : RegNum) (offset : BitVec 16) (s : State) (i : Instr) (pa : Nat),
    let va := s.dataAddr base offset
    let k := va.toNat % 4
    let accesses : List (Instr × Word × Nat × Nat) :=
      [(.lb rt base offset, va, 1, 1), (.lbu rt base offset, va, 1, 1), (.lh rt base offset, va, 2, 2),
       (.lhu rt base offset, va, 2, 2), (.lw rt base offset, va, 4, 4), (.lwl rt base offset, alignedWord va, k + 1, 1),
       (.lwr rt base offset, va, 4 - k, 1), (.sb rt base offset, va, 1, 1), (.sh rt base offset, va, 2, 2),
       (.sw rt base offset, va, 4, 4), (.swl rt base offset, alignedWord va, k + 1, 1),
       (.swr rt base offset, va, 4 - k, 1)]
    ∀ first n align, (i, first, n, align) ∈ accesses → va.toNat % align = 0 →
      firstUnbacked s.cfg (s.physAddrs first n) = some pa → exec i s = .fault (.unbacked pa)

/-- 47_load_store.md R206: with a legal SEGMAP, LWR at p and LWL at p + 3, in either order, load the word at any address p
of ordinary memory; r0 stays 0. The register loaded is not the base, which the first load would change, or is r0; both offsets
fit in 16 bits. -/
def Obligations.UnalignedLoadPair : Prop :=
  ∀ (rt base : RegNum) (offset : BitVec 16) (s : State),
    let p := s.dataAddr base offset
    platformOk s.cfg = true → rt ≠ base ∨ rt = 0#5 → offset.toInt + 3 < 2 ^ 15 →
    (∀ j, j < 4 → s.ordinary (p + BitVec.ofNat 32 j) 1 = true) →
      let w := if rt = 0#5 then 0#32 else
        s.byteAt (p + 3) 0 ++ s.byteAt (p + 2) 0 ++ s.byteAt (p + 1) 0 ++ s.byteAt p 0
      (∃ t u, exec (.lwr rt base offset) s = .next t ∧ exec (.lwl rt base (offset + 3)) t = .next u ∧ u.reg rt = w) ∧
      (∃ t u, exec (.lwl rt base (offset + 3)) s = .next t ∧ exec (.lwr rt base offset) t = .next u ∧ u.reg rt = w)

/-- 47_load_store.md R206: with a legal SEGMAP, SWR at p and SWL at p + 3, in either order, store the register at any
address p of ordinary memory, both offsets fitting in 16 bits, and change no other byte. -/
def Obligations.UnalignedStorePair : Prop :=
  ∀ (rt base : RegNum) (offset : BitVec 16) (s : State),
    let p := s.dataAddr base offset
    platformOk s.cfg = true → offset.toInt + 3 < 2 ^ 15 →
    (∀ j, j < 4 → s.ordinary (p + BitVec.ofNat 32 j) 1 = true) →
      ∀ first second, (first = Instr.swr rt base offset ∧ second = Instr.swl rt base (offset + 3)) ∨
          (first = Instr.swl rt base (offset + 3) ∧ second = Instr.swr rt base offset) →
        ∃ t u, exec first s = .next t ∧ exec second t = .next u ∧
          (∀ j, j < 4 → u.byteAt (p + BitVec.ofNat 32 j) 0 = byteOf (s.reg rt) j) ∧
          (∀ pa, (∀ j, j < 4 → pa ≠ s.physAddr (p + BitVec.ofNat 32 j) 0) → u.readByte pa = s.readByte pa)

/-- 20_memory.md R64: with a legal SEGMAP, a word stored to ordinary memory is read back whole, by halves and by bytes. -/
def Obligations.MixedWidthReadBack : Prop :=
  ∀ (rt base : RegNum) (offset : BitVec 16) (s : State),
    let va := s.dataAddr base offset
    platformOk s.cfg = true → va.toNat % 4 = 0 → s.ordinary va 4 = true →
      ∃ t, exec (.sw rt base offset) s = .next t ∧ t.memRead va 4 = s.reg rt ∧
        (∀ h, h < 2 → t.memRead (va + BitVec.ofNat 32 (2 * h)) 2 =
          BitVec.ofNat 32 ((s.reg rt).toNat / 2 ^ (16 * h) % 2 ^ 16)) ∧
        (∀ k, k < 4 → t.memRead (va + BitVec.ofNat 32 k) 1 = BitVec.ofNat 32 ((s.reg rt).toNat / 2 ^ (8 * k) % 2 ^ 8))

/-- 20_memory.md R68, R69, R72: a legal SEGMAP maps the four bytes of an aligned word to an aligned physical word, each
address to one of PABITS bits. The default map (PRESUMED, log 4): kseg0 and kseg1 both show the low 512 MB, every other
segment maps to itself, and the exception vector is physical 0x1FC00380. -/
def Obligations.Translation : Prop :=
  (∀ (p : Config.Platform) (va : Word) (k : Nat), platformOk p = true → va.toNat % 4 = 0 → k < 4 →
    Machine.translate p (va + BitVec.ofNat 32 k) = Machine.translate p va + k ∧
      Machine.translate p va % 4 = 0 ∧ Machine.translate p va + k < 2 ^ p.paBits) ∧
  (∀ x : Word, x.toNat < 2 ^ 29 →
    Machine.translate defaultPlatform (0x80000000#32 + x) = x.toNat ∧
      Machine.translate defaultPlatform (0xA0000000#32 + x) = x.toNat) ∧
  (∀ va : Word, va.toNat < 0x80000000 ∨ 0xC0000000 ≤ va.toNat → Machine.translate defaultPlatform va = va.toNat) ∧
  Machine.translate defaultPlatform 0xBFC00380#32 = 0x1FC00380

/-! ### The CP0 moves -/

/-- 48_privileged.md R211; 10_state.md R38, R43, R44, R50: MFC0 of the six registers, Status and Cause bit by bit. -/
def Obligations.ReadCp0 : Prop :=
  ∀ (rt : RegNum) (s : State),
    (∃ t, exec (.mfc0 rt 8 0) s = .next t ∧ s.WroteReg t rt s.badVAddr) ∧
    (∃ t, exec (.mfc0 rt 9 0) s = .next t ∧ s.WroteReg t rt s.count) ∧
    (∃ t, exec (.mfc0 rt 11 0) s = .next t ∧ s.WroteReg t rt s.compare) ∧
    (∃ t, exec (.mfc0 rt 14 0) s = .next t ∧ s.WroteReg t rt s.epc) ∧
    (∃ t v, exec (.mfc0 rt 12 0) s = .next t ∧ s.WroteReg t rt v ∧
      v.getLsbD 22 = true ∧ v.getLsbD 1 = s.exl ∧ v.getLsbD 0 = s.ie ∧
      (∀ n, n < 8 → v.getLsbD (8 + n) = s.im.getLsbD n) ∧
      (∀ n, (23 ≤ n ∧ n < 32) ∨ (16 ≤ n ∧ n < 22) ∨ (2 ≤ n ∧ n < 8) → v.getLsbD n = false)) ∧
    (∃ t v, exec (.mfc0 rt 13 0) s = .next t ∧ s.WroteReg t rt v ∧
      v.getLsbD 31 = s.bd ∧ v.getLsbD 30 = s.ti ∧
      (∀ n, n < 8 → v.getLsbD (8 + n) = s.lineActive n) ∧
      (∀ n, n < 5 → v.getLsbD (2 + n) = s.excCode.getLsbD n) ∧
      (∀ n, (16 ≤ n ∧ n < 30) ∨ n = 7 ∨ n < 2 → v.getLsbD n = false))

/-- 48_privileged.md R214 (logs 10, 21): MTC0 to each register, and what of Cause.TI a write of Count or Compare leaves. -/
def Obligations.WriteCp0 : Prop :=
  ∀ (rt : RegNum) (s : State),
    exec (.mtc0 rt 8 0) s = .next { s with pc := s.npc, npc := s.npc + 4, ds := false } ∧
    exec (.mtc0 rt 9 0) s = .next
      { s with
        count := s.reg rt, ti := if s.reg rt = s.compare then s.tiRace else s.ti
        pc := s.npc, npc := s.npc + 4, ds := false } ∧
    exec (.mtc0 rt 11 0) s = .next
      { s with
        compare := s.reg rt, ti := if s.reg rt = s.count then s.tiRace else false
        pc := s.npc, npc := s.npc + 4, ds := false } ∧
    exec (.mtc0 rt 12 0) s = .next
      { s with
        im := (s.reg rt).extractLsb' 8 8, exl := (s.reg rt).getLsbD 1, ie := (s.reg rt).getLsbD 0
        pc := s.npc, npc := s.npc + 4, ds := false } ∧
    exec (.mtc0 rt 13 0) s = .next
      { s with ipSw := (s.reg rt).extractLsb' 8 2, pc := s.npc, npc := s.npc + 4, ds := false } ∧
    exec (.mtc0 rt 14 0) s = .next { s with epc := s.reg rt, pc := s.npc, npc := s.npc + 4, ds := false }

/-- 48_privileged.md R213 (log 6): MFC0 and MTC0 naming no register complete: a free value is read, nothing is written. -/
def Obligations.AbsentCp0Registers : Prop :=
  ∀ (rt : RegNum) (rd : BitVec 5) (sel : BitVec 3) (s : State), sel ≠ 0#3 ∨ rd.toNat ∉ [8, 9, 11, 12, 13, 14] →
    (∃ t, exec (.mfc0 rt rd sel) s = .next t ∧ s.WroteReg t rt (Config.absentCp0 rd sel s.moment)) ∧
    exec (.mtc0 rt rd sel) s = .next { s with pc := s.npc, npc := s.npc + 4, ds := false }

/-- 10_state.md R43, R50, R51; 48_privileged.md R212 (log 21): a register written by MTC0 and read back by the next
instruction, its read-only bits kept, with no tick and no new sample between the two (in a run Count may tick, TI may be set
and the pins may change there: 10_state.md R30, 60_exceptions.md R250). -/
def Obligations.Cp0ReadBack : Prop :=
  ∀ (rt q : RegNum) (s : State), q ≠ 0#5 →
    let readsBack := fun (rd : BitVec 5) (v : Word) =>
      ∃ t u, exec (.mtc0 rt rd 0) s = .next t ∧ exec (.mfc0 q rd 0) t = .next u ∧ u.reg q = v
    readsBack 8 s.badVAddr ∧ readsBack 9 (s.reg rt) ∧ readsBack 11 (s.reg rt) ∧ readsBack 14 (s.reg rt) ∧
    readsBack 12 (s.reg rt &&& 0x0000FF03#32 ||| 0x00400000#32) ∧
    readsBack 13 (s.cause &&& 0xFFFFFCFF#32 ||| s.reg rt &&& 0x00000300#32)

/-! ### Devices -/

/-- 20_memory.md R71, R77 (log 35): an instruction reaches devices at most once, and only a load or a store does; what it
reaches is a device's, and a load or store leaves what memory lists there alone. -/
def Obligations.DevicesReachedOnce : Prop :=
  ∀ (i : Instr) (s t : State), exec i s = .next t → t.deviceLog ≠ s.deviceLog →
    (isLoad i = true ∧ ∃ pas, pas ≠ [] ∧ t.deviceLog = .read pas :: s.deviceLog ∧ ∀ pa ∈ pas, s.isDevice pa = true) ∨
    (isStore i = true ∧ ∃ cells, cells ≠ [] ∧ t.deviceLog = .write cells :: s.deviceLog ∧
      ∀ c ∈ cells, s.isDevice c.1 = true ∧ t.mem.get c.1 = s.mem.get c.1)
end

