-- ==== Sys2Proof/Laws/Encoding.lean ====
section
/-! SUPPORT. The formats of 30_encoding.md: each field of an encoded word is the operand it was made from, and a word is
made of its fields. -/

namespace Sys2Proof

@[simp] theorem fieldOp_rType (op : BitVec 6) (rs rt rd : RegNum) (sa : BitVec 5) (funct : BitVec 6) : fieldOp (rType op rs rt rd sa funct) = op := by
  change BitVec.extractLsb' (n := 6+5+5+5+5+6) 26 6 (op ++ rs ++ rt ++ rd ++ sa ++ funct) = op
  rw [BitVec.extractLsb'_append_eq_of_le (by decide),
    BitVec.extractLsb'_append_eq_of_le (by decide),
    BitVec.extractLsb'_append_eq_of_le (by decide),
    BitVec.extractLsb'_append_eq_of_le (by decide),
    BitVec.extractLsb'_append_eq_of_le (by decide)]
  exact BitVec.extractLsb'_eq_self

@[simp] theorem fieldRs_rType (op : BitVec 6) (rs rt rd : RegNum) (sa : BitVec 5) (funct : BitVec 6) : fieldRs (rType op rs rt rd sa funct) = rs := by
  change BitVec.extractLsb' (n := 6+5+5+5+5+6) 21 5 (op ++ rs ++ rt ++ rd ++ sa ++ funct) = rs
  rw [BitVec.extractLsb'_append_eq_of_le (by decide),
    BitVec.extractLsb'_append_eq_of_le (by decide),
    BitVec.extractLsb'_append_eq_of_le (by decide),
    BitVec.extractLsb'_append_eq_of_le (by decide),
    BitVec.extractLsb'_append_eq_right]

@[simp] theorem fieldRt_rType (op : BitVec 6) (rs rt rd : RegNum) (sa : BitVec 5) (funct : BitVec 6) : fieldRt (rType op rs rt rd sa funct) = rt := by
  change BitVec.extractLsb' (n := 6+5+5+5+5+6) 16 5 (op ++ rs ++ rt ++ rd ++ sa ++ funct) = rt
  rw [BitVec.extractLsb'_append_eq_of_le (by decide),
    BitVec.extractLsb'_append_eq_of_le (by decide),
    BitVec.extractLsb'_append_eq_of_le (by decide),
    BitVec.extractLsb'_append_eq_right]

@[simp] theorem fieldRd_rType (op : BitVec 6) (rs rt rd : RegNum) (sa : BitVec 5) (funct : BitVec 6) : fieldRd (rType op rs rt rd sa funct) = rd := by
  change BitVec.extractLsb' (n := 6+5+5+5+5+6) 11 5 (op ++ rs ++ rt ++ rd ++ sa ++ funct) = rd
  rw [BitVec.extractLsb'_append_eq_of_le (by decide),
    BitVec.extractLsb'_append_eq_of_le (by decide),
    BitVec.extractLsb'_append_eq_right]

@[simp] theorem fieldSa_rType (op : BitVec 6) (rs rt rd : RegNum) (sa : BitVec 5) (funct : BitVec 6) : fieldSa (rType op rs rt rd sa funct) = sa := by
  change BitVec.extractLsb' (n := 6+5+5+5+5+6) 6 5 (op ++ rs ++ rt ++ rd ++ sa ++ funct) = sa
  rw [BitVec.extractLsb'_append_eq_of_le (by decide),
    BitVec.extractLsb'_append_eq_right]

@[simp] theorem fieldFunct_rType (op : BitVec 6) (rs rt rd : RegNum) (sa : BitVec 5) (funct : BitVec 6) : fieldFunct (rType op rs rt rd sa funct) = funct := by
  change BitVec.extractLsb' (n := 6+5+5+5+5+6) 0 6 (op ++ rs ++ rt ++ rd ++ sa ++ funct) = funct
  rw [BitVec.extractLsb'_append_eq_right]

@[simp] theorem fieldOp_iType (op : BitVec 6) (rs rt : RegNum) (imm : BitVec 16) : fieldOp (iType op rs rt imm) = op := by
  change BitVec.extractLsb' (n := 6+5+5+16) 26 6 (op ++ rs ++ rt ++ imm) = op
  rw [BitVec.extractLsb'_append_eq_of_le (by decide),
    BitVec.extractLsb'_append_eq_of_le (by decide),
    BitVec.extractLsb'_append_eq_of_le (by decide)]
  exact BitVec.extractLsb'_eq_self

@[simp] theorem fieldRs_iType (op : BitVec 6) (rs rt : RegNum) (imm : BitVec 16) : fieldRs (iType op rs rt imm) = rs := by
  change BitVec.extractLsb' (n := 6+5+5+16) 21 5 (op ++ rs ++ rt ++ imm) = rs
  rw [BitVec.extractLsb'_append_eq_of_le (by decide),
    BitVec.extractLsb'_append_eq_of_le (by decide),
    BitVec.extractLsb'_append_eq_right]

@[simp] theorem fieldRt_iType (op : BitVec 6) (rs rt : RegNum) (imm : BitVec 16) : fieldRt (iType op rs rt imm) = rt := by
  change BitVec.extractLsb' (n := 6+5+5+16) 16 5 (op ++ rs ++ rt ++ imm) = rt
  rw [BitVec.extractLsb'_append_eq_of_le (by decide),
    BitVec.extractLsb'_append_eq_right]

@[simp] theorem fieldImm_iType (op : BitVec 6) (rs rt : RegNum) (imm : BitVec 16) : fieldImm (iType op rs rt imm) = imm := by
  change BitVec.extractLsb' (n := 6+5+5+16) 0 16 (op ++ rs ++ rt ++ imm) = imm
  rw [BitVec.extractLsb'_append_eq_right]

@[simp] theorem fieldOp_jType (op : BitVec 6) (index : BitVec 26) : fieldOp (jType op index) = op := by
  change BitVec.extractLsb' (n := 6+26) 26 6 (op ++ index) = op
  rw [BitVec.extractLsb'_append_eq_of_le (by decide)]
  exact BitVec.extractLsb'_eq_self

@[simp] theorem fieldIndex_jType (op : BitVec 6) (index : BitVec 26) : fieldIndex (jType op index) = index := by
  change BitVec.extractLsb' (n := 6+26) 0 26 (op ++ index) = index
  rw [BitVec.extractLsb'_append_eq_right]

@[simp] theorem fieldOp_codeType (code : BitVec 20) (funct : BitVec 6) : fieldOp (codeType code funct) = 0b000000#6 := by
  change BitVec.extractLsb' (n := 6+20+6) 26 6 (0b000000#6 ++ code ++ funct) = 0b000000#6
  rw [BitVec.extractLsb'_append_eq_of_le (by decide),
    BitVec.extractLsb'_append_eq_of_le (by decide)]
  exact BitVec.extractLsb'_eq_self

@[simp] theorem fieldCode_codeType (code : BitVec 20) (funct : BitVec 6) : fieldCode (codeType code funct) = code := by
  change BitVec.extractLsb' (n := 6+20+6) 6 20 (0b000000#6 ++ code ++ funct) = code
  rw [BitVec.extractLsb'_append_eq_of_le (by decide),
    BitVec.extractLsb'_append_eq_right]

@[simp] theorem fieldFunct_codeType (code : BitVec 20) (funct : BitVec 6) : fieldFunct (codeType code funct) = funct := by
  change BitVec.extractLsb' (n := 6+20+6) 0 6 (0b000000#6 ++ code ++ funct) = funct
  rw [BitVec.extractLsb'_append_eq_right]

@[simp] theorem fieldOp_cp0Type (sub : BitVec 5) (rt : RegNum) (rd : BitVec 5) (sel : BitVec 3) : fieldOp (cp0Type sub rt rd sel) = 0b010000#6 := by
  change BitVec.extractLsb' (n := 6+5+5+5+8+3) 26 6 (0b010000#6 ++ sub ++ rt ++ rd ++ 0#8 ++ sel) = 0b010000#6
  rw [BitVec.extractLsb'_append_eq_of_le (by decide),
    BitVec.extractLsb'_append_eq_of_le (by decide),
    BitVec.extractLsb'_append_eq_of_le (by decide),
    BitVec.extractLsb'_append_eq_of_le (by decide),
    BitVec.extractLsb'_append_eq_of_le (by decide)]
  exact BitVec.extractLsb'_eq_self

@[simp] theorem fieldRs_cp0Type (sub : BitVec 5) (rt : RegNum) (rd : BitVec 5) (sel : BitVec 3) : fieldRs (cp0Type sub rt rd sel) = sub := by
  change BitVec.extractLsb' (n := 6+5+5+5+8+3) 21 5 (0b010000#6 ++ sub ++ rt ++ rd ++ 0#8 ++ sel) = sub
  rw [BitVec.extractLsb'_append_eq_of_le (by decide),
    BitVec.extractLsb'_append_eq_of_le (by decide),
    BitVec.extractLsb'_append_eq_of_le (by decide),
    BitVec.extractLsb'_append_eq_of_le (by decide),
    BitVec.extractLsb'_append_eq_right]

@[simp] theorem fieldRt_cp0Type (sub : BitVec 5) (rt : RegNum) (rd : BitVec 5) (sel : BitVec 3) : fieldRt (cp0Type sub rt rd sel) = rt := by
  change BitVec.extractLsb' (n := 6+5+5+5+8+3) 16 5 (0b010000#6 ++ sub ++ rt ++ rd ++ 0#8 ++ sel) = rt
  rw [BitVec.extractLsb'_append_eq_of_le (by decide),
    BitVec.extractLsb'_append_eq_of_le (by decide),
    BitVec.extractLsb'_append_eq_of_le (by decide),
    BitVec.extractLsb'_append_eq_right]

@[simp] theorem fieldRd_cp0Type (sub : BitVec 5) (rt : RegNum) (rd : BitVec 5) (sel : BitVec 3) : fieldRd (cp0Type sub rt rd sel) = rd := by
  change BitVec.extractLsb' (n := 6+5+5+5+8+3) 11 5 (0b010000#6 ++ sub ++ rt ++ rd ++ 0#8 ++ sel) = rd
  rw [BitVec.extractLsb'_append_eq_of_le (by decide),
    BitVec.extractLsb'_append_eq_of_le (by decide),
    BitVec.extractLsb'_append_eq_right]

@[simp] theorem fieldCp0Zero_cp0Type (sub : BitVec 5) (rt : RegNum) (rd : BitVec 5) (sel : BitVec 3) : fieldCp0Zero (cp0Type sub rt rd sel) = 0#8 := by
  change BitVec.extractLsb' (n := 6+5+5+5+8+3) 3 8 (0b010000#6 ++ sub ++ rt ++ rd ++ 0#8 ++ sel) = 0#8
  rw [BitVec.extractLsb'_append_eq_of_le (by decide),
    BitVec.extractLsb'_append_eq_right]

@[simp] theorem fieldSel_cp0Type (sub : BitVec 5) (rt : RegNum) (rd : BitVec 5) (sel : BitVec 3) : fieldSel (cp0Type sub rt rd sel) = sel := by
  change BitVec.extractLsb' (n := 6+5+5+5+8+3) 0 3 (0b010000#6 ++ sub ++ rt ++ rd ++ 0#8 ++ sel) = sel
  rw [BitVec.extractLsb'_append_eq_right]

/-- A word is the R-Type word of its fields. -/
theorem rType_fields (w : Word) :
    rType (fieldOp w) (fieldRs w) (fieldRt w) (fieldRd w) (fieldSa w) (fieldFunct w) = w := by
  change (BitVec.extractLsb' 26 6 w ++ BitVec.extractLsb' 21 5 w ++ BitVec.extractLsb' 16 5 w ++
    BitVec.extractLsb' 11 5 w ++ BitVec.extractLsb' 6 5 w ++ BitVec.extractLsb' 0 6 w : BitVec (6+5+5+5+5+6)) = w
  rw [BitVec.extractLsb'_append_extractLsb'_eq_extractLsb' (show 26 = 21 + 5 from rfl),
    BitVec.extractLsb'_append_extractLsb'_eq_extractLsb' (show 21 = 16 + 5 from rfl),
    BitVec.extractLsb'_append_extractLsb'_eq_extractLsb' (show 16 = 11 + 5 from rfl),
    BitVec.extractLsb'_append_extractLsb'_eq_extractLsb' (show 11 = 6 + 5 from rfl),
    BitVec.extractLsb'_append_extractLsb'_eq_extractLsb' (show 6 = 0 + 6 from rfl)]
  exact BitVec.extractLsb'_eq_self

/-- A word is the I-Type word of its fields. -/
theorem iType_fields (w : Word) : iType (fieldOp w) (fieldRs w) (fieldRt w) (fieldImm w) = w := by
  change (BitVec.extractLsb' 26 6 w ++ BitVec.extractLsb' 21 5 w ++ BitVec.extractLsb' 16 5 w ++
    BitVec.extractLsb' 0 16 w : BitVec (6+5+5+16)) = w
  rw [BitVec.extractLsb'_append_extractLsb'_eq_extractLsb' (show 26 = 21 + 5 from rfl),
    BitVec.extractLsb'_append_extractLsb'_eq_extractLsb' (show 21 = 16 + 5 from rfl),
    BitVec.extractLsb'_append_extractLsb'_eq_extractLsb' (show 16 = 0 + 16 from rfl)]
  exact BitVec.extractLsb'_eq_self

/-- A word is the J-Type word of its fields. -/
theorem jType_fields (w : Word) : jType (fieldOp w) (fieldIndex w) = w := by
  change (BitVec.extractLsb' 26 6 w ++ BitVec.extractLsb' 0 26 w : BitVec (6+26)) = w
  rw [BitVec.extractLsb'_append_extractLsb'_eq_extractLsb' (show 26 = 0 + 26 from rfl)]
  exact BitVec.extractLsb'_eq_self

/-- A word of opcode 000000 is made of its code field and its funct. -/
theorem codeType_fields (w : Word) (h : fieldOp w = 0b000000#6) : codeType (fieldCode w) (fieldFunct w) = w := by
  unfold codeType
  rw [← h]
  change (BitVec.extractLsb' 26 6 w ++ BitVec.extractLsb' 6 20 w ++ BitVec.extractLsb' 0 6 w : BitVec (6+20+6)) = w
  rw [BitVec.extractLsb'_append_extractLsb'_eq_extractLsb' (show 26 = 6 + 20 from rfl),
    BitVec.extractLsb'_append_extractLsb'_eq_extractLsb' (show 6 = 0 + 6 from rfl)]
  exact BitVec.extractLsb'_eq_self

/-- A word of opcode 010000 with bits 10..3 zero is made of the fields of MFC0 and MTC0. -/
theorem cp0Type_fields (w : Word) (h : fieldOp w = 0b010000#6) (hz : fieldCp0Zero w = 0#8) :
    cp0Type (fieldRs w) (fieldRt w) (fieldRd w) (fieldSel w) = w := by
  unfold cp0Type
  rw [← h, ← hz]
  change (BitVec.extractLsb' 26 6 w ++ BitVec.extractLsb' 21 5 w ++ BitVec.extractLsb' 16 5 w ++
    BitVec.extractLsb' 11 5 w ++ BitVec.extractLsb' 3 8 w ++ BitVec.extractLsb' 0 3 w : BitVec (6+5+5+5+8+3)) = w
  rw [BitVec.extractLsb'_append_extractLsb'_eq_extractLsb' (show 26 = 21 + 5 from rfl),
    BitVec.extractLsb'_append_extractLsb'_eq_extractLsb' (show 21 = 16 + 5 from rfl),
    BitVec.extractLsb'_append_extractLsb'_eq_extractLsb' (show 16 = 11 + 5 from rfl),
    BitVec.extractLsb'_append_extractLsb'_eq_extractLsb' (show 11 = 3 + 8 from rfl),
    BitVec.extractLsb'_append_extractLsb'_eq_extractLsb' (show 3 = 0 + 3 from rfl)]
  exact BitVec.extractLsb'_eq_self

/-- The bitwise and of two R-Type words, field by field. -/
theorem rType_and (o o' : BitVec 6) (a a' b b' c c' d d' : BitVec 5) (f f' : BitVec 6) :
    rType o a b c d f &&& rType o' a' b' c' d' f' =
      rType (o &&& o') (a &&& a') (b &&& b') (c &&& c') (d &&& d') (f &&& f') := by
  unfold rType
  rw [BitVec.and_append, BitVec.and_append, BitVec.and_append, BitVec.and_append, BitVec.and_append]

/-- The bitwise and of two I-Type words, field by field. -/
theorem iType_and (o o' : BitVec 6) (a a' b b' : BitVec 5) (c c' : BitVec 16) :
    iType o a b c &&& iType o' a' b' c' = iType (o &&& o') (a &&& a') (b &&& b') (c &&& c') := by
  unfold iType
  rw [BitVec.and_append, BitVec.and_append, BitVec.and_append]

/-- The low four bytes of a word make the word again. -/
theorem leWord_leBytes (w : Word) : leWord (leBytes 4 w) = w := by
  have h : leWord (leBytes 4 w) = ((((0 <<< 8 ||| ((w >>> 8 >>> 8 >>> 8).setWidth 8).setWidth 32) <<< 8 |||
      ((w >>> 8 >>> 8).setWidth 8).setWidth 32) <<< 8 ||| ((w >>> 8).setWidth 8).setWidth 32) <<< 8 |||
      (w.setWidth 8).setWidth 32) := rfl
  rw [h]
  apply BitVec.eq_of_getLsbD_eq
  intro i hi
  interval_cases i <;> simp

end Sys2Proof
end

