-- ==== Sys2Proof/Laws/Memory.lean ====
section
/-! SUPPORT. The laws of the memory: what a write leaves readable, and that every operation keeps the canonical form. -/

namespace Sys2Proof.Machine

/-- A read after a write gives the value written at that address and what stood before at every other. -/
theorem Memory.get_set (m : Memory) (pa : Nat) (v : Byte) (a : Nat) :
    (m.set pa v).get a = if a = pa then some v else m.get a := by
  induction m with
  | nil => simp only [Memory.set, Memory.get, eq_comm (a := a)]
  | cons c m ih =>
    obtain ⟨b, w⟩ := c
    unfold Memory.set
    split
    · by_cases h : a = pa
      · simp [Memory.get, h]
      · simp [Memory.get, h, Ne.symm h]
    · split
      · rename_i h1 h2
        subst h2
        by_cases h : a = pa
        · simp [Memory.get, h]
        · simp [Memory.get, h, Ne.symm h]
      · rename_i h1 h2
        by_cases h : b = a
        · subst h
          simp [Memory.get, Ne.symm h2]
        · simp [Memory.get, h, ih]

/-- The addresses listed after a write are those listed before and the address written. -/
theorem Memory.mem_set_addr (m : Memory) (pa : Nat) (v : Byte) (c : Host.Cell) (h : c ∈ m.set pa v) :
    c.1 = pa ∨ c ∈ m := by
  induction m with
  | nil => simp only [Memory.set, List.mem_singleton] at h; simp [h]
  | cons d m ih =>
    obtain ⟨b, w⟩ := d
    unfold Memory.set at h
    split at h
    · rcases List.mem_cons.mp h with h | h
      · simp [h]
      · exact .inr h
    · split at h
      · rcases List.mem_cons.mp h with h | h
        · simp [h]
        · exact .inr (List.mem_cons_of_mem _ h)
      · rcases List.mem_cons.mp h with h | h
        · simp [h]
        · rcases ih h with h | h
          · exact .inl h
          · exact .inr (List.mem_cons_of_mem _ h)

/-- A write keeps the canonical form. -/
theorem Memory.wf_set (m : Memory) (pa : Nat) (v : Byte) (hm : m.wf) : (m.set pa v).wf := by
  induction m with
  | nil => simp [Memory.set]
  | cons d m ih =>
    obtain ⟨b, w⟩ := d
    obtain ⟨hd, ht⟩ := List.pairwise_cons.mp hm
    unfold Memory.set
    split
    · rename_i h1
      refine List.pairwise_cons.mpr ⟨?_, hm⟩
      intro c hc
      rcases List.mem_cons.mp hc with hc | hc
      · simpa [hc] using h1
      · exact Nat.lt_trans h1 (hd c hc)
    · split
      · rename_i h1 h2
        subst h2
        exact List.pairwise_cons.mpr ⟨hd, ht⟩
      · rename_i h1 h2
        refine List.pairwise_cons.mpr ⟨?_, ih ht⟩
        intro c hc
        rcases Memory.mem_set_addr m pa v c hc with hc | hc
        · simp only [hc]; omega
        · exact hd c hc

variable (isMem : Nat → Bool)

/-- A write of several bytes keeps the canonical form. -/
theorem Memory.wf_setBytes (m : Memory) (pas : List Nat) (v : Word) (hm : m.wf) : (m.setBytes isMem pas v).wf := by
  induction pas generalizing m v with
  | nil => exact hm
  | cons a as ih =>
    refine ih _ _ ?_
    split
    · exact Memory.wf_set m a _ hm
    · exact hm

/-- The addresses listed after a write of several bytes are those listed before and addresses written. -/
theorem Memory.mem_setBytes_addr (m : Memory) (pas : List Nat) (v : Word) (c : Host.Cell)
    (h : c ∈ m.setBytes isMem pas v) : c.1 ∈ pas ∨ c ∈ m := by
  induction pas generalizing m v with
  | nil => exact .inr h
  | cons a as ih =>
    rcases ih _ _ h with h | h
    · exact .inl (List.mem_cons_of_mem _ h)
    · split at h
      · rcases Memory.mem_set_addr m a _ c h with h | h
        · exact .inl (by rw [h]; exact List.mem_cons_self)
        · exact .inr h
      · exact .inr h

/-- A write of several bytes leaves alone every other address, and every one that is not memory. -/
theorem Memory.get_setBytes_of_notMem (m : Memory) (pas : List Nat) (v : Word) (a : Nat)
    (h : a ∉ pas ∨ isMem a = false) : (m.setBytes isMem pas v).get a = m.get a := by
  induction pas generalizing m v with
  | nil => rfl
  | cons b bs ih =>
    rw [Memory.setBytes, ih _ _ (h.imp_left fun h => (not_or.mp (List.mem_cons.not.mp h)).2)]
    split
    · rename_i hb
      rw [Memory.get_set, if_neg]
      rintro rfl
      rcases h with h | h
      · exact h List.mem_cons_self
      · rw [hb] at h; cases h
    · rfl

/-- Where the addresses are distinct, each that is memory holds its byte of the word written. -/
theorem Memory.get_setBytes (m : Memory) (pas : List Nat) (v : Word) (hnd : pas.Nodup) (k : Nat) (hk : k < pas.length)
    (hm : isMem pas[k] = true) : (m.setBytes isMem pas v).get pas[k] = some ((v >>> (8 * k)).setWidth 8) := by
  induction pas generalizing m v k with
  | nil => simp at hk
  | cons b bs ih =>
    obtain ⟨hb, hbs⟩ := List.nodup_cons.mp hnd
    cases k with
    | zero =>
      simp only [List.getElem_cons_zero] at hm ⊢
      rw [Memory.setBytes, Memory.get_setBytes_of_notMem _ _ _ _ _ (.inl hb), if_pos hm, Memory.get_set, if_pos rfl]
      simp
    | succ k =>
      simp only [List.getElem_cons_succ, Memory.setBytes] at hm ⊢
      rw [ih _ _ hbs k (by simpa using hk) hm, ← BitVec.shiftRight_add]
      congr 3
      omega

/-- The same through the byte an address reads as. -/
theorem Memory.byte_setBytes_of_notMem (m : Memory) (pas : List Nat) (v : Word) (a : Nat)
    (h : a ∉ pas ∨ isMem a = false) : (m.setBytes isMem pas v).byte a = m.byte a := by
  rw [Memory.byte, Memory.byte, Memory.get_setBytes_of_notMem _ _ _ _ _ h]

theorem Memory.byte_setBytes (m : Memory) (pas : List Nat) (v : Word) (hnd : pas.Nodup) (k : Nat) (hk : k < pas.length)
    (hm : isMem pas[k] = true) : (m.setBytes isMem pas v).byte pas[k] = (v >>> (8 * k)).setWidth 8 := by
  rw [Memory.byte, Memory.get_setBytes _ _ _ _ hnd k hk hm, Option.getD_some]

/-- Right after reset the memory has its canonical form. -/
theorem Memory.wf_reset : State.reset.mem.wf := by simp [State.reset, Memory.wf]

/-! ### The list of the addresses stored to -/

theorem mem_insertAddr (a b : Nat) (l : List Nat) : b ∈ insertAddr a l ↔ b = a ∨ b ∈ l := by
  induction l with
  | nil => simp [insertAddr]
  | cons c l ih =>
    unfold insertAddr
    split
    · simp
    · split
      · rename_i h; subst h; simp
      · simp only [List.mem_cons, ih]; tauto

theorem insertAddr_rising (a : Nat) (l : List Nat) (h : l.Pairwise (· < ·)) : (insertAddr a l).Pairwise (· < ·) := by
  induction l with
  | nil => simp [insertAddr]
  | cons c l ih =>
    obtain ⟨hc, hl⟩ := List.pairwise_cons.mp h
    unfold insertAddr
    split
    · rename_i h1
      refine List.pairwise_cons.mpr ⟨?_, h⟩
      intro b hb
      rcases List.mem_cons.mp hb with rfl | hb
      · exact h1
      · exact Nat.lt_trans h1 (hc b hb)
    · split
      · exact h
      · refine List.pairwise_cons.mpr ⟨?_, ih hl⟩
        intro b hb
        rcases (mem_insertAddr a b l).mp hb with rfl | hb
        · omega
        · exact hc b hb

theorem mem_insertAddrs (as l : List Nat) (b : Nat) : b ∈ as.foldr insertAddr l ↔ b ∈ l ∨ b ∈ as := by
  induction as with
  | nil => simp
  | cons a as ih => simp only [List.foldr_cons, mem_insertAddr, ih, List.mem_cons]; tauto

theorem insertAddrs_rising (as l : List Nat) (h : l.Pairwise (· < ·)) : (as.foldr insertAddr l).Pairwise (· < ·) := by
  induction as with
  | nil => exact h
  | cons a as ih => exact insertAddr_rising a _ ih

end Sys2Proof.Machine
end

