-- ==== Sys2Proof/Laws/State.lean ====
section
/-! SUPPORT. What each update of the state leaves in each field: one lemma per field per update, true by rfl, so that no
later proof unfolds a record update. -/

namespace Sys2Proof.Machine

variable (s : State)

/-! ### setReg -/

@[simp] theorem State.setReg_gpr (r : RegNum) (v : Word) : (s.setReg r v).gpr = if r = 0#5 then s.gpr else s.gpr.set r.toNat v := rfl
@[simp] theorem State.setReg_hi (r : RegNum) (v : Word) : (s.setReg r v).hi = s.hi := rfl
@[simp] theorem State.setReg_lo (r : RegNum) (v : Word) : (s.setReg r v).lo = s.lo := rfl
@[simp] theorem State.setReg_pc (r : RegNum) (v : Word) : (s.setReg r v).pc = s.pc := rfl
@[simp] theorem State.setReg_npc (r : RegNum) (v : Word) : (s.setReg r v).npc = s.npc := rfl
@[simp] theorem State.setReg_ds (r : RegNum) (v : Word) : (s.setReg r v).ds = s.ds := rfl
@[simp] theorem State.setReg_badVAddr (r : RegNum) (v : Word) : (s.setReg r v).badVAddr = s.badVAddr := rfl
@[simp] theorem State.setReg_count (r : RegNum) (v : Word) : (s.setReg r v).count = s.count := rfl
@[simp] theorem State.setReg_compare (r : RegNum) (v : Word) : (s.setReg r v).compare = s.compare := rfl
@[simp] theorem State.setReg_im (r : RegNum) (v : Word) : (s.setReg r v).im = s.im := rfl
@[simp] theorem State.setReg_exl (r : RegNum) (v : Word) : (s.setReg r v).exl = s.exl := rfl
@[simp] theorem State.setReg_ie (r : RegNum) (v : Word) : (s.setReg r v).ie = s.ie := rfl
@[simp] theorem State.setReg_bd (r : RegNum) (v : Word) : (s.setReg r v).bd = s.bd := rfl
@[simp] theorem State.setReg_ti (r : RegNum) (v : Word) : (s.setReg r v).ti = s.ti := rfl
@[simp] theorem State.setReg_ipSw (r : RegNum) (v : Word) : (s.setReg r v).ipSw = s.ipSw := rfl
@[simp] theorem State.setReg_excCode (r : RegNum) (v : Word) : (s.setReg r v).excCode = s.excCode := rfl
@[simp] theorem State.setReg_epc (r : RegNum) (v : Word) : (s.setReg r v).epc = s.epc := rfl
@[simp] theorem State.setReg_hwInt (r : RegNum) (v : Word) : (s.setReg r v).hwInt = s.hwInt := rfl
@[simp] theorem State.setReg_tiRace (r : RegNum) (v : Word) : (s.setReg r v).tiRace = s.tiRace := rfl
@[simp] theorem State.setReg_deviceData (r : RegNum) (v : Word) : (s.setReg r v).deviceData = s.deviceData := rfl
@[simp] theorem State.setReg_deviceFetch (r : RegNum) (v : Word) : (s.setReg r v).deviceFetch = s.deviceFetch := rfl
@[simp] theorem State.setReg_deviceLog (r : RegNum) (v : Word) : (s.setReg r v).deviceLog = s.deviceLog := rfl
@[simp] theorem State.setReg_stored (r : RegNum) (v : Word) : (s.setReg r v).stored = s.stored := rfl
@[simp] theorem State.setReg_intHeld (r : RegNum) (v : Word) : (s.setReg r v).intHeld = s.intHeld := rfl
@[simp] theorem State.setReg_inputs (r : RegNum) (v : Word) : (s.setReg r v).inputs = s.inputs := rfl
@[simp] theorem State.setReg_moment (r : RegNum) (v : Word) : (s.setReg r v).moment = s.moment := rfl
@[simp] theorem State.setReg_cfg (r : RegNum) (v : Word) : (s.setReg r v).cfg = s.cfg := rfl
@[simp] theorem State.setReg_mem (r : RegNum) (v : Word) : (s.setReg r v).mem = s.mem := rfl
@[simp] theorem State.setReg_readByte (r : RegNum) (v : Word) (pa : Nat) : (s.setReg r v).readByte pa = s.readByte pa := rfl
@[simp] theorem State.setReg_physAddr (r : RegNum) (v : Word) (a : Word) (k : Nat) : (s.setReg r v).physAddr a k = s.physAddr a k := rfl
@[simp] theorem State.setReg_isDevice (r : RegNum) (v : Word) (pa : Nat) : (s.setReg r v).isDevice pa = s.isDevice pa := rfl

/-! ### setHiLo -/

@[simp] theorem State.setHiLo_gpr (v : Config.HiLo) : (s.setHiLo v).gpr = s.gpr := rfl
@[simp] theorem State.setHiLo_hi (v : Config.HiLo) : (s.setHiLo v).hi = v.hi := rfl
@[simp] theorem State.setHiLo_lo (v : Config.HiLo) : (s.setHiLo v).lo = v.lo := rfl
@[simp] theorem State.setHiLo_pc (v : Config.HiLo) : (s.setHiLo v).pc = s.pc := rfl
@[simp] theorem State.setHiLo_npc (v : Config.HiLo) : (s.setHiLo v).npc = s.npc := rfl
@[simp] theorem State.setHiLo_ds (v : Config.HiLo) : (s.setHiLo v).ds = s.ds := rfl
@[simp] theorem State.setHiLo_badVAddr (v : Config.HiLo) : (s.setHiLo v).badVAddr = s.badVAddr := rfl
@[simp] theorem State.setHiLo_count (v : Config.HiLo) : (s.setHiLo v).count = s.count := rfl
@[simp] theorem State.setHiLo_compare (v : Config.HiLo) : (s.setHiLo v).compare = s.compare := rfl
@[simp] theorem State.setHiLo_im (v : Config.HiLo) : (s.setHiLo v).im = s.im := rfl
@[simp] theorem State.setHiLo_exl (v : Config.HiLo) : (s.setHiLo v).exl = s.exl := rfl
@[simp] theorem State.setHiLo_ie (v : Config.HiLo) : (s.setHiLo v).ie = s.ie := rfl
@[simp] theorem State.setHiLo_bd (v : Config.HiLo) : (s.setHiLo v).bd = s.bd := rfl
@[simp] theorem State.setHiLo_ti (v : Config.HiLo) : (s.setHiLo v).ti = s.ti := rfl
@[simp] theorem State.setHiLo_ipSw (v : Config.HiLo) : (s.setHiLo v).ipSw = s.ipSw := rfl
@[simp] theorem State.setHiLo_excCode (v : Config.HiLo) : (s.setHiLo v).excCode = s.excCode := rfl
@[simp] theorem State.setHiLo_epc (v : Config.HiLo) : (s.setHiLo v).epc = s.epc := rfl
@[simp] theorem State.setHiLo_hwInt (v : Config.HiLo) : (s.setHiLo v).hwInt = s.hwInt := rfl
@[simp] theorem State.setHiLo_tiRace (v : Config.HiLo) : (s.setHiLo v).tiRace = s.tiRace := rfl
@[simp] theorem State.setHiLo_deviceData (v : Config.HiLo) : (s.setHiLo v).deviceData = s.deviceData := rfl
@[simp] theorem State.setHiLo_deviceFetch (v : Config.HiLo) : (s.setHiLo v).deviceFetch = s.deviceFetch := rfl
@[simp] theorem State.setHiLo_deviceLog (v : Config.HiLo) : (s.setHiLo v).deviceLog = s.deviceLog := rfl
@[simp] theorem State.setHiLo_stored (v : Config.HiLo) : (s.setHiLo v).stored = s.stored := rfl
@[simp] theorem State.setHiLo_intHeld (v : Config.HiLo) : (s.setHiLo v).intHeld = s.intHeld := rfl
@[simp] theorem State.setHiLo_inputs (v : Config.HiLo) : (s.setHiLo v).inputs = s.inputs := rfl
@[simp] theorem State.setHiLo_moment (v : Config.HiLo) : (s.setHiLo v).moment = s.moment := rfl
@[simp] theorem State.setHiLo_cfg (v : Config.HiLo) : (s.setHiLo v).cfg = s.cfg := rfl
@[simp] theorem State.setHiLo_mem (v : Config.HiLo) : (s.setHiLo v).mem = s.mem := rfl
@[simp] theorem State.setHiLo_reg (v : Config.HiLo) (q : RegNum) : (s.setHiLo v).reg q = s.reg q := rfl
@[simp] theorem State.setHiLo_readByte (v : Config.HiLo) (pa : Nat) : (s.setHiLo v).readByte pa = s.readByte pa := rfl
@[simp] theorem State.setHiLo_physAddr (v : Config.HiLo) (a : Word) (k : Nat) : (s.setHiLo v).physAddr a k = s.physAddr a k := rfl
@[simp] theorem State.setHiLo_isDevice (v : Config.HiLo) (pa : Nat) : (s.setHiLo v).isDevice pa = s.isDevice pa := rfl

/-! ### setHi -/

@[simp] theorem State.setHi_gpr (v : Word) : (s.setHi v).gpr = s.gpr := rfl
@[simp] theorem State.setHi_hi (v : Word) : (s.setHi v).hi = v := rfl
@[simp] theorem State.setHi_lo (v : Word) : (s.setHi v).lo = s.lo := rfl
@[simp] theorem State.setHi_pc (v : Word) : (s.setHi v).pc = s.pc := rfl
@[simp] theorem State.setHi_npc (v : Word) : (s.setHi v).npc = s.npc := rfl
@[simp] theorem State.setHi_ds (v : Word) : (s.setHi v).ds = s.ds := rfl
@[simp] theorem State.setHi_badVAddr (v : Word) : (s.setHi v).badVAddr = s.badVAddr := rfl
@[simp] theorem State.setHi_count (v : Word) : (s.setHi v).count = s.count := rfl
@[simp] theorem State.setHi_compare (v : Word) : (s.setHi v).compare = s.compare := rfl
@[simp] theorem State.setHi_im (v : Word) : (s.setHi v).im = s.im := rfl
@[simp] theorem State.setHi_exl (v : Word) : (s.setHi v).exl = s.exl := rfl
@[simp] theorem State.setHi_ie (v : Word) : (s.setHi v).ie = s.ie := rfl
@[simp] theorem State.setHi_bd (v : Word) : (s.setHi v).bd = s.bd := rfl
@[simp] theorem State.setHi_ti (v : Word) : (s.setHi v).ti = s.ti := rfl
@[simp] theorem State.setHi_ipSw (v : Word) : (s.setHi v).ipSw = s.ipSw := rfl
@[simp] theorem State.setHi_excCode (v : Word) : (s.setHi v).excCode = s.excCode := rfl
@[simp] theorem State.setHi_epc (v : Word) : (s.setHi v).epc = s.epc := rfl
@[simp] theorem State.setHi_hwInt (v : Word) : (s.setHi v).hwInt = s.hwInt := rfl
@[simp] theorem State.setHi_tiRace (v : Word) : (s.setHi v).tiRace = s.tiRace := rfl
@[simp] theorem State.setHi_deviceData (v : Word) : (s.setHi v).deviceData = s.deviceData := rfl
@[simp] theorem State.setHi_deviceFetch (v : Word) : (s.setHi v).deviceFetch = s.deviceFetch := rfl
@[simp] theorem State.setHi_deviceLog (v : Word) : (s.setHi v).deviceLog = s.deviceLog := rfl
@[simp] theorem State.setHi_stored (v : Word) : (s.setHi v).stored = s.stored := rfl
@[simp] theorem State.setHi_intHeld (v : Word) : (s.setHi v).intHeld = s.intHeld := rfl
@[simp] theorem State.setHi_inputs (v : Word) : (s.setHi v).inputs = s.inputs := rfl
@[simp] theorem State.setHi_moment (v : Word) : (s.setHi v).moment = s.moment := rfl
@[simp] theorem State.setHi_cfg (v : Word) : (s.setHi v).cfg = s.cfg := rfl
@[simp] theorem State.setHi_mem (v : Word) : (s.setHi v).mem = s.mem := rfl
@[simp] theorem State.setHi_reg (v : Word) (q : RegNum) : (s.setHi v).reg q = s.reg q := rfl
@[simp] theorem State.setHi_readByte (v : Word) (pa : Nat) : (s.setHi v).readByte pa = s.readByte pa := rfl
@[simp] theorem State.setHi_physAddr (v : Word) (a : Word) (k : Nat) : (s.setHi v).physAddr a k = s.physAddr a k := rfl
@[simp] theorem State.setHi_isDevice (v : Word) (pa : Nat) : (s.setHi v).isDevice pa = s.isDevice pa := rfl

/-! ### setLo -/

@[simp] theorem State.setLo_gpr (v : Word) : (s.setLo v).gpr = s.gpr := rfl
@[simp] theorem State.setLo_hi (v : Word) : (s.setLo v).hi = s.hi := rfl
@[simp] theorem State.setLo_lo (v : Word) : (s.setLo v).lo = v := rfl
@[simp] theorem State.setLo_pc (v : Word) : (s.setLo v).pc = s.pc := rfl
@[simp] theorem State.setLo_npc (v : Word) : (s.setLo v).npc = s.npc := rfl
@[simp] theorem State.setLo_ds (v : Word) : (s.setLo v).ds = s.ds := rfl
@[simp] theorem State.setLo_badVAddr (v : Word) : (s.setLo v).badVAddr = s.badVAddr := rfl
@[simp] theorem State.setLo_count (v : Word) : (s.setLo v).count = s.count := rfl
@[simp] theorem State.setLo_compare (v : Word) : (s.setLo v).compare = s.compare := rfl
@[simp] theorem State.setLo_im (v : Word) : (s.setLo v).im = s.im := rfl
@[simp] theorem State.setLo_exl (v : Word) : (s.setLo v).exl = s.exl := rfl
@[simp] theorem State.setLo_ie (v : Word) : (s.setLo v).ie = s.ie := rfl
@[simp] theorem State.setLo_bd (v : Word) : (s.setLo v).bd = s.bd := rfl
@[simp] theorem State.setLo_ti (v : Word) : (s.setLo v).ti = s.ti := rfl
@[simp] theorem State.setLo_ipSw (v : Word) : (s.setLo v).ipSw = s.ipSw := rfl
@[simp] theorem State.setLo_excCode (v : Word) : (s.setLo v).excCode = s.excCode := rfl
@[simp] theorem State.setLo_epc (v : Word) : (s.setLo v).epc = s.epc := rfl
@[simp] theorem State.setLo_hwInt (v : Word) : (s.setLo v).hwInt = s.hwInt := rfl
@[simp] theorem State.setLo_tiRace (v : Word) : (s.setLo v).tiRace = s.tiRace := rfl
@[simp] theorem State.setLo_deviceData (v : Word) : (s.setLo v).deviceData = s.deviceData := rfl
@[simp] theorem State.setLo_deviceFetch (v : Word) : (s.setLo v).deviceFetch = s.deviceFetch := rfl
@[simp] theorem State.setLo_deviceLog (v : Word) : (s.setLo v).deviceLog = s.deviceLog := rfl
@[simp] theorem State.setLo_stored (v : Word) : (s.setLo v).stored = s.stored := rfl
@[simp] theorem State.setLo_intHeld (v : Word) : (s.setLo v).intHeld = s.intHeld := rfl
@[simp] theorem State.setLo_inputs (v : Word) : (s.setLo v).inputs = s.inputs := rfl
@[simp] theorem State.setLo_moment (v : Word) : (s.setLo v).moment = s.moment := rfl
@[simp] theorem State.setLo_cfg (v : Word) : (s.setLo v).cfg = s.cfg := rfl
@[simp] theorem State.setLo_mem (v : Word) : (s.setLo v).mem = s.mem := rfl
@[simp] theorem State.setLo_reg (v : Word) (q : RegNum) : (s.setLo v).reg q = s.reg q := rfl
@[simp] theorem State.setLo_readByte (v : Word) (pa : Nat) : (s.setLo v).readByte pa = s.readByte pa := rfl
@[simp] theorem State.setLo_physAddr (v : Word) (a : Word) (k : Nat) : (s.setLo v).physAddr a k = s.physAddr a k := rfl
@[simp] theorem State.setLo_isDevice (v : Word) (pa : Nat) : (s.setLo v).isDevice pa = s.isDevice pa := rfl

/-! ### advance -/

@[simp] theorem State.advance_gpr : (s.advance).gpr = s.gpr := rfl
@[simp] theorem State.advance_hi : (s.advance).hi = s.hi := rfl
@[simp] theorem State.advance_lo : (s.advance).lo = s.lo := rfl
@[simp] theorem State.advance_pc : (s.advance).pc = s.npc := rfl
@[simp] theorem State.advance_npc : (s.advance).npc = s.npc + 4 := rfl
@[simp] theorem State.advance_ds : (s.advance).ds = false := rfl
@[simp] theorem State.advance_badVAddr : (s.advance).badVAddr = s.badVAddr := rfl
@[simp] theorem State.advance_count : (s.advance).count = s.count := rfl
@[simp] theorem State.advance_compare : (s.advance).compare = s.compare := rfl
@[simp] theorem State.advance_im : (s.advance).im = s.im := rfl
@[simp] theorem State.advance_exl : (s.advance).exl = s.exl := rfl
@[simp] theorem State.advance_ie : (s.advance).ie = s.ie := rfl
@[simp] theorem State.advance_bd : (s.advance).bd = s.bd := rfl
@[simp] theorem State.advance_ti : (s.advance).ti = s.ti := rfl
@[simp] theorem State.advance_ipSw : (s.advance).ipSw = s.ipSw := rfl
@[simp] theorem State.advance_excCode : (s.advance).excCode = s.excCode := rfl
@[simp] theorem State.advance_epc : (s.advance).epc = s.epc := rfl
@[simp] theorem State.advance_hwInt : (s.advance).hwInt = s.hwInt := rfl
@[simp] theorem State.advance_tiRace : (s.advance).tiRace = s.tiRace := rfl
@[simp] theorem State.advance_deviceData : (s.advance).deviceData = s.deviceData := rfl
@[simp] theorem State.advance_deviceFetch : (s.advance).deviceFetch = s.deviceFetch := rfl
@[simp] theorem State.advance_deviceLog : (s.advance).deviceLog = s.deviceLog := rfl
@[simp] theorem State.advance_stored : (s.advance).stored = s.stored := rfl
@[simp] theorem State.advance_intHeld : (s.advance).intHeld = s.intHeld := rfl
@[simp] theorem State.advance_inputs : (s.advance).inputs = s.inputs := rfl
@[simp] theorem State.advance_moment : (s.advance).moment = s.moment := rfl
@[simp] theorem State.advance_cfg : (s.advance).cfg = s.cfg := rfl
@[simp] theorem State.advance_mem : (s.advance).mem = s.mem := rfl
@[simp] theorem State.advance_reg (q : RegNum) : (s.advance).reg q = s.reg q := rfl
@[simp] theorem State.advance_readByte (pa : Nat) : (s.advance).readByte pa = s.readByte pa := rfl
@[simp] theorem State.advance_physAddr (a : Word) (k : Nat) : (s.advance).physAddr a k = s.physAddr a k := rfl
@[simp] theorem State.advance_isDevice (pa : Nat) : (s.advance).isDevice pa = s.isDevice pa := rfl

/-! ### branchTo -/

@[simp] theorem State.branchTo_gpr (c : Bool) (t : Word) : (s.branchTo c t).gpr = s.gpr := rfl
@[simp] theorem State.branchTo_hi (c : Bool) (t : Word) : (s.branchTo c t).hi = s.hi := rfl
@[simp] theorem State.branchTo_lo (c : Bool) (t : Word) : (s.branchTo c t).lo = s.lo := rfl
@[simp] theorem State.branchTo_pc (c : Bool) (t : Word) : (s.branchTo c t).pc = s.npc := rfl
@[simp] theorem State.branchTo_npc (c : Bool) (t : Word) : (s.branchTo c t).npc = if c then t else s.npc + 4 := rfl
@[simp] theorem State.branchTo_ds (c : Bool) (t : Word) : (s.branchTo c t).ds = true := rfl
@[simp] theorem State.branchTo_badVAddr (c : Bool) (t : Word) : (s.branchTo c t).badVAddr = s.badVAddr := rfl
@[simp] theorem State.branchTo_count (c : Bool) (t : Word) : (s.branchTo c t).count = s.count := rfl
@[simp] theorem State.branchTo_compare (c : Bool) (t : Word) : (s.branchTo c t).compare = s.compare := rfl
@[simp] theorem State.branchTo_im (c : Bool) (t : Word) : (s.branchTo c t).im = s.im := rfl
@[simp] theorem State.branchTo_exl (c : Bool) (t : Word) : (s.branchTo c t).exl = s.exl := rfl
@[simp] theorem State.branchTo_ie (c : Bool) (t : Word) : (s.branchTo c t).ie = s.ie := rfl
@[simp] theorem State.branchTo_bd (c : Bool) (t : Word) : (s.branchTo c t).bd = s.bd := rfl
@[simp] theorem State.branchTo_ti (c : Bool) (t : Word) : (s.branchTo c t).ti = s.ti := rfl
@[simp] theorem State.branchTo_ipSw (c : Bool) (t : Word) : (s.branchTo c t).ipSw = s.ipSw := rfl
@[simp] theorem State.branchTo_excCode (c : Bool) (t : Word) : (s.branchTo c t).excCode = s.excCode := rfl
@[simp] theorem State.branchTo_epc (c : Bool) (t : Word) : (s.branchTo c t).epc = s.epc := rfl
@[simp] theorem State.branchTo_hwInt (c : Bool) (t : Word) : (s.branchTo c t).hwInt = s.hwInt := rfl
@[simp] theorem State.branchTo_tiRace (c : Bool) (t : Word) : (s.branchTo c t).tiRace = s.tiRace := rfl
@[simp] theorem State.branchTo_deviceData (c : Bool) (t : Word) : (s.branchTo c t).deviceData = s.deviceData := rfl
@[simp] theorem State.branchTo_deviceFetch (c : Bool) (t : Word) : (s.branchTo c t).deviceFetch = s.deviceFetch := rfl
@[simp] theorem State.branchTo_deviceLog (c : Bool) (t : Word) : (s.branchTo c t).deviceLog = s.deviceLog := rfl
@[simp] theorem State.branchTo_stored (c : Bool) (t : Word) : (s.branchTo c t).stored = s.stored := rfl
@[simp] theorem State.branchTo_intHeld (c : Bool) (t : Word) : (s.branchTo c t).intHeld = s.intHeld := rfl
@[simp] theorem State.branchTo_inputs (c : Bool) (t : Word) : (s.branchTo c t).inputs = s.inputs := rfl
@[simp] theorem State.branchTo_moment (c : Bool) (t : Word) : (s.branchTo c t).moment = s.moment := rfl
@[simp] theorem State.branchTo_cfg (c : Bool) (t : Word) : (s.branchTo c t).cfg = s.cfg := rfl
@[simp] theorem State.branchTo_mem (c : Bool) (t : Word) : (s.branchTo c t).mem = s.mem := rfl
@[simp] theorem State.branchTo_reg (c : Bool) (t : Word) (q : RegNum) : (s.branchTo c t).reg q = s.reg q := rfl
@[simp] theorem State.branchTo_readByte (c : Bool) (t : Word) (pa : Nat) : (s.branchTo c t).readByte pa = s.readByte pa := rfl
@[simp] theorem State.branchTo_physAddr (c : Bool) (t : Word) (a : Word) (k : Nat) : (s.branchTo c t).physAddr a k = s.physAddr a k := rfl
@[simp] theorem State.branchTo_isDevice (c : Bool) (t : Word) (pa : Nat) : (s.branchTo c t).isDevice pa = s.isDevice pa := rfl

/-! ### enterException -/

@[simp] theorem State.enterException_gpr (c : ExcCode) (bad : Option Word) : (s.enterException c bad).gpr = s.gpr := rfl
@[simp] theorem State.enterException_hi (c : ExcCode) (bad : Option Word) : (s.enterException c bad).hi = s.hi := rfl
@[simp] theorem State.enterException_lo (c : ExcCode) (bad : Option Word) : (s.enterException c bad).lo = s.lo := rfl
@[simp] theorem State.enterException_pc (c : ExcCode) (bad : Option Word) : (s.enterException c bad).pc = exceptionVector := rfl
@[simp] theorem State.enterException_npc (c : ExcCode) (bad : Option Word) : (s.enterException c bad).npc = exceptionVector + 4 := rfl
@[simp] theorem State.enterException_ds (c : ExcCode) (bad : Option Word) : (s.enterException c bad).ds = false := rfl
@[simp] theorem State.enterException_badVAddr (c : ExcCode) (bad : Option Word) : (s.enterException c bad).badVAddr = bad.getD s.badVAddr := rfl
@[simp] theorem State.enterException_count (c : ExcCode) (bad : Option Word) : (s.enterException c bad).count = s.count := rfl
@[simp] theorem State.enterException_compare (c : ExcCode) (bad : Option Word) : (s.enterException c bad).compare = s.compare := rfl
@[simp] theorem State.enterException_im (c : ExcCode) (bad : Option Word) : (s.enterException c bad).im = s.im := rfl
@[simp] theorem State.enterException_exl (c : ExcCode) (bad : Option Word) : (s.enterException c bad).exl = true := rfl
@[simp] theorem State.enterException_ie (c : ExcCode) (bad : Option Word) : (s.enterException c bad).ie = s.ie := rfl
@[simp] theorem State.enterException_bd (c : ExcCode) (bad : Option Word) : (s.enterException c bad).bd = if s.exl then s.bd else s.ds := rfl
@[simp] theorem State.enterException_ti (c : ExcCode) (bad : Option Word) : (s.enterException c bad).ti = s.ti := rfl
@[simp] theorem State.enterException_ipSw (c : ExcCode) (bad : Option Word) : (s.enterException c bad).ipSw = s.ipSw := rfl
@[simp] theorem State.enterException_excCode (c : ExcCode) (bad : Option Word) : (s.enterException c bad).excCode = c.code := rfl
@[simp] theorem State.enterException_epc (c : ExcCode) (bad : Option Word) : (s.enterException c bad).epc = if s.exl then s.epc else if s.ds then s.pc - 4 else s.pc := rfl
@[simp] theorem State.enterException_hwInt (c : ExcCode) (bad : Option Word) : (s.enterException c bad).hwInt = s.hwInt := rfl
@[simp] theorem State.enterException_tiRace (c : ExcCode) (bad : Option Word) : (s.enterException c bad).tiRace = s.tiRace := rfl
@[simp] theorem State.enterException_deviceData (c : ExcCode) (bad : Option Word) : (s.enterException c bad).deviceData = s.deviceData := rfl
@[simp] theorem State.enterException_deviceFetch (c : ExcCode) (bad : Option Word) : (s.enterException c bad).deviceFetch = s.deviceFetch := rfl
@[simp] theorem State.enterException_deviceLog (c : ExcCode) (bad : Option Word) : (s.enterException c bad).deviceLog = s.deviceLog := rfl
@[simp] theorem State.enterException_stored (c : ExcCode) (bad : Option Word) : (s.enterException c bad).stored = s.stored := rfl
@[simp] theorem State.enterException_intHeld (c : ExcCode) (bad : Option Word) : (s.enterException c bad).intHeld = s.intHeld := rfl
@[simp] theorem State.enterException_inputs (c : ExcCode) (bad : Option Word) : (s.enterException c bad).inputs = s.inputs := rfl
@[simp] theorem State.enterException_moment (c : ExcCode) (bad : Option Word) : (s.enterException c bad).moment = s.moment := rfl
@[simp] theorem State.enterException_cfg (c : ExcCode) (bad : Option Word) : (s.enterException c bad).cfg = s.cfg := rfl
@[simp] theorem State.enterException_mem (c : ExcCode) (bad : Option Word) : (s.enterException c bad).mem = s.mem := rfl
@[simp] theorem State.enterException_reg (c : ExcCode) (bad : Option Word) (q : RegNum) : (s.enterException c bad).reg q = s.reg q := rfl
@[simp] theorem State.enterException_readByte (c : ExcCode) (bad : Option Word) (pa : Nat) : (s.enterException c bad).readByte pa = s.readByte pa := rfl
@[simp] theorem State.enterException_physAddr (c : ExcCode) (bad : Option Word) (a : Word) (k : Nat) : (s.enterException c bad).physAddr a k = s.physAddr a k := rfl
@[simp] theorem State.enterException_isDevice (c : ExcCode) (bad : Option Word) (pa : Nat) : (s.enterException c bad).isDevice pa = s.isDevice pa := rfl

/-! ### exceptionReturn -/

@[simp] theorem State.exceptionReturn_gpr : (s.exceptionReturn).gpr = s.gpr := rfl
@[simp] theorem State.exceptionReturn_hi : (s.exceptionReturn).hi = s.hi := rfl
@[simp] theorem State.exceptionReturn_lo : (s.exceptionReturn).lo = s.lo := rfl
@[simp] theorem State.exceptionReturn_pc : (s.exceptionReturn).pc = s.epc := rfl
@[simp] theorem State.exceptionReturn_npc : (s.exceptionReturn).npc = s.epc + 4 := rfl
@[simp] theorem State.exceptionReturn_ds : (s.exceptionReturn).ds = false := rfl
@[simp] theorem State.exceptionReturn_badVAddr : (s.exceptionReturn).badVAddr = s.badVAddr := rfl
@[simp] theorem State.exceptionReturn_count : (s.exceptionReturn).count = s.count := rfl
@[simp] theorem State.exceptionReturn_compare : (s.exceptionReturn).compare = s.compare := rfl
@[simp] theorem State.exceptionReturn_im : (s.exceptionReturn).im = s.im := rfl
@[simp] theorem State.exceptionReturn_exl : (s.exceptionReturn).exl = false := rfl
@[simp] theorem State.exceptionReturn_ie : (s.exceptionReturn).ie = s.ie := rfl
@[simp] theorem State.exceptionReturn_bd : (s.exceptionReturn).bd = s.bd := rfl
@[simp] theorem State.exceptionReturn_ti : (s.exceptionReturn).ti = s.ti := rfl
@[simp] theorem State.exceptionReturn_ipSw : (s.exceptionReturn).ipSw = s.ipSw := rfl
@[simp] theorem State.exceptionReturn_excCode : (s.exceptionReturn).excCode = s.excCode := rfl
@[simp] theorem State.exceptionReturn_epc : (s.exceptionReturn).epc = s.epc := rfl
@[simp] theorem State.exceptionReturn_hwInt : (s.exceptionReturn).hwInt = s.hwInt := rfl
@[simp] theorem State.exceptionReturn_tiRace : (s.exceptionReturn).tiRace = s.tiRace := rfl
@[simp] theorem State.exceptionReturn_deviceData : (s.exceptionReturn).deviceData = s.deviceData := rfl
@[simp] theorem State.exceptionReturn_deviceFetch : (s.exceptionReturn).deviceFetch = s.deviceFetch := rfl
@[simp] theorem State.exceptionReturn_deviceLog : (s.exceptionReturn).deviceLog = s.deviceLog := rfl
@[simp] theorem State.exceptionReturn_stored : (s.exceptionReturn).stored = s.stored := rfl
@[simp] theorem State.exceptionReturn_intHeld : (s.exceptionReturn).intHeld = s.intHeld := rfl
@[simp] theorem State.exceptionReturn_inputs : (s.exceptionReturn).inputs = s.inputs := rfl
@[simp] theorem State.exceptionReturn_moment : (s.exceptionReturn).moment = s.moment := rfl
@[simp] theorem State.exceptionReturn_cfg : (s.exceptionReturn).cfg = s.cfg := rfl
@[simp] theorem State.exceptionReturn_mem : (s.exceptionReturn).mem = s.mem := rfl
@[simp] theorem State.exceptionReturn_reg (q : RegNum) : (s.exceptionReturn).reg q = s.reg q := rfl
@[simp] theorem State.exceptionReturn_readByte (pa : Nat) : (s.exceptionReturn).readByte pa = s.readByte pa := rfl
@[simp] theorem State.exceptionReturn_physAddr (a : Word) (k : Nat) : (s.exceptionReturn).physAddr a k = s.physAddr a k := rfl
@[simp] theorem State.exceptionReturn_isDevice (pa : Nat) : (s.exceptionReturn).isDevice pa = s.isDevice pa := rfl

/-! ### memWrite -/

@[simp] theorem State.memWrite_gpr (va : Word) (n : Nat) (v : Word) : (s.memWrite va n v).gpr = s.gpr := rfl
@[simp] theorem State.memWrite_hi (va : Word) (n : Nat) (v : Word) : (s.memWrite va n v).hi = s.hi := rfl
@[simp] theorem State.memWrite_lo (va : Word) (n : Nat) (v : Word) : (s.memWrite va n v).lo = s.lo := rfl
@[simp] theorem State.memWrite_pc (va : Word) (n : Nat) (v : Word) : (s.memWrite va n v).pc = s.pc := rfl
@[simp] theorem State.memWrite_npc (va : Word) (n : Nat) (v : Word) : (s.memWrite va n v).npc = s.npc := rfl
@[simp] theorem State.memWrite_ds (va : Word) (n : Nat) (v : Word) : (s.memWrite va n v).ds = s.ds := rfl
@[simp] theorem State.memWrite_badVAddr (va : Word) (n : Nat) (v : Word) : (s.memWrite va n v).badVAddr = s.badVAddr := rfl
@[simp] theorem State.memWrite_count (va : Word) (n : Nat) (v : Word) : (s.memWrite va n v).count = s.count := rfl
@[simp] theorem State.memWrite_compare (va : Word) (n : Nat) (v : Word) : (s.memWrite va n v).compare = s.compare := rfl
@[simp] theorem State.memWrite_im (va : Word) (n : Nat) (v : Word) : (s.memWrite va n v).im = s.im := rfl
@[simp] theorem State.memWrite_exl (va : Word) (n : Nat) (v : Word) : (s.memWrite va n v).exl = s.exl := rfl
@[simp] theorem State.memWrite_ie (va : Word) (n : Nat) (v : Word) : (s.memWrite va n v).ie = s.ie := rfl
@[simp] theorem State.memWrite_bd (va : Word) (n : Nat) (v : Word) : (s.memWrite va n v).bd = s.bd := rfl
@[simp] theorem State.memWrite_ti (va : Word) (n : Nat) (v : Word) : (s.memWrite va n v).ti = s.ti := rfl
@[simp] theorem State.memWrite_ipSw (va : Word) (n : Nat) (v : Word) : (s.memWrite va n v).ipSw = s.ipSw := rfl
@[simp] theorem State.memWrite_excCode (va : Word) (n : Nat) (v : Word) : (s.memWrite va n v).excCode = s.excCode := rfl
@[simp] theorem State.memWrite_epc (va : Word) (n : Nat) (v : Word) : (s.memWrite va n v).epc = s.epc := rfl
@[simp] theorem State.memWrite_hwInt (va : Word) (n : Nat) (v : Word) : (s.memWrite va n v).hwInt = s.hwInt := rfl
@[simp] theorem State.memWrite_tiRace (va : Word) (n : Nat) (v : Word) : (s.memWrite va n v).tiRace = s.tiRace := rfl
@[simp] theorem State.memWrite_deviceData (va : Word) (n : Nat) (v : Word) : (s.memWrite va n v).deviceData = s.deviceData := rfl
@[simp] theorem State.memWrite_deviceFetch (va : Word) (n : Nat) (v : Word) : (s.memWrite va n v).deviceFetch = s.deviceFetch := rfl
@[simp] theorem State.memWrite_deviceLog (va : Word) (n : Nat) (v : Word) : (s.memWrite va n v).deviceLog = s.writeLog va n v := rfl
@[simp] theorem State.memWrite_stored (va : Word) (n : Nat) (v : Word) : (s.memWrite va n v).stored = (s.physAddrs va n).foldr insertAddr s.stored := rfl
@[simp] theorem State.memWrite_intHeld (va : Word) (n : Nat) (v : Word) : (s.memWrite va n v).intHeld = s.intHeld := rfl
@[simp] theorem State.memWrite_inputs (va : Word) (n : Nat) (v : Word) : (s.memWrite va n v).inputs = s.inputs := rfl
@[simp] theorem State.memWrite_moment (va : Word) (n : Nat) (v : Word) : (s.memWrite va n v).moment = s.moment := rfl
@[simp] theorem State.memWrite_cfg (va : Word) (n : Nat) (v : Word) : (s.memWrite va n v).cfg = s.cfg := rfl
@[simp] theorem State.memWrite_mem (va : Word) (n : Nat) (v : Word) : (s.memWrite va n v).mem = s.mem.setBytes (fun pa => !s.isDevice pa) (s.physAddrs va n) v := rfl
@[simp] theorem State.memWrite_reg (va : Word) (n : Nat) (v : Word) (q : RegNum) : (s.memWrite va n v).reg q = s.reg q := rfl
@[simp] theorem State.memWrite_physAddr (va : Word) (n : Nat) (v : Word) (a : Word) (k : Nat) : (s.memWrite va n v).physAddr a k = s.physAddr a k := rfl
@[simp] theorem State.memWrite_isDevice (va : Word) (n : Nat) (v : Word) (pa : Nat) : (s.memWrite va n v).isDevice pa = s.isDevice pa := rfl

/-! ### noteRead -/

@[simp] theorem State.noteRead_gpr (va : Word) (n : Nat) : (s.noteRead va n).gpr = s.gpr := rfl
@[simp] theorem State.noteRead_hi (va : Word) (n : Nat) : (s.noteRead va n).hi = s.hi := rfl
@[simp] theorem State.noteRead_lo (va : Word) (n : Nat) : (s.noteRead va n).lo = s.lo := rfl
@[simp] theorem State.noteRead_pc (va : Word) (n : Nat) : (s.noteRead va n).pc = s.pc := rfl
@[simp] theorem State.noteRead_npc (va : Word) (n : Nat) : (s.noteRead va n).npc = s.npc := rfl
@[simp] theorem State.noteRead_ds (va : Word) (n : Nat) : (s.noteRead va n).ds = s.ds := rfl
@[simp] theorem State.noteRead_badVAddr (va : Word) (n : Nat) : (s.noteRead va n).badVAddr = s.badVAddr := rfl
@[simp] theorem State.noteRead_count (va : Word) (n : Nat) : (s.noteRead va n).count = s.count := rfl
@[simp] theorem State.noteRead_compare (va : Word) (n : Nat) : (s.noteRead va n).compare = s.compare := rfl
@[simp] theorem State.noteRead_im (va : Word) (n : Nat) : (s.noteRead va n).im = s.im := rfl
@[simp] theorem State.noteRead_exl (va : Word) (n : Nat) : (s.noteRead va n).exl = s.exl := rfl
@[simp] theorem State.noteRead_ie (va : Word) (n : Nat) : (s.noteRead va n).ie = s.ie := rfl
@[simp] theorem State.noteRead_bd (va : Word) (n : Nat) : (s.noteRead va n).bd = s.bd := rfl
@[simp] theorem State.noteRead_ti (va : Word) (n : Nat) : (s.noteRead va n).ti = s.ti := rfl
@[simp] theorem State.noteRead_ipSw (va : Word) (n : Nat) : (s.noteRead va n).ipSw = s.ipSw := rfl
@[simp] theorem State.noteRead_excCode (va : Word) (n : Nat) : (s.noteRead va n).excCode = s.excCode := rfl
@[simp] theorem State.noteRead_epc (va : Word) (n : Nat) : (s.noteRead va n).epc = s.epc := rfl
@[simp] theorem State.noteRead_hwInt (va : Word) (n : Nat) : (s.noteRead va n).hwInt = s.hwInt := rfl
@[simp] theorem State.noteRead_tiRace (va : Word) (n : Nat) : (s.noteRead va n).tiRace = s.tiRace := rfl
@[simp] theorem State.noteRead_deviceData (va : Word) (n : Nat) : (s.noteRead va n).deviceData = s.deviceData := rfl
@[simp] theorem State.noteRead_deviceFetch (va : Word) (n : Nat) : (s.noteRead va n).deviceFetch = s.deviceFetch := rfl
@[simp] theorem State.noteRead_deviceLog (va : Word) (n : Nat) : (s.noteRead va n).deviceLog = s.readLog va n := rfl
@[simp] theorem State.noteRead_stored (va : Word) (n : Nat) : (s.noteRead va n).stored = s.stored := rfl
@[simp] theorem State.noteRead_intHeld (va : Word) (n : Nat) : (s.noteRead va n).intHeld = s.intHeld := rfl
@[simp] theorem State.noteRead_inputs (va : Word) (n : Nat) : (s.noteRead va n).inputs = s.inputs := rfl
@[simp] theorem State.noteRead_moment (va : Word) (n : Nat) : (s.noteRead va n).moment = s.moment := rfl
@[simp] theorem State.noteRead_cfg (va : Word) (n : Nat) : (s.noteRead va n).cfg = s.cfg := rfl
@[simp] theorem State.noteRead_mem (va : Word) (n : Nat) : (s.noteRead va n).mem = s.mem := rfl
@[simp] theorem State.noteRead_reg (va : Word) (n : Nat) (q : RegNum) : (s.noteRead va n).reg q = s.reg q := rfl
@[simp] theorem State.noteRead_readByte (va : Word) (n : Nat) (pa : Nat) : (s.noteRead va n).readByte pa = s.readByte pa := rfl
@[simp] theorem State.noteRead_physAddr (va : Word) (n : Nat) (a : Word) (k : Nat) : (s.noteRead va n).physAddr a k = s.physAddr a k := rfl
@[simp] theorem State.noteRead_isDevice (va : Word) (n : Nat) (pa : Nat) : (s.noteRead va n).isDevice pa = s.isDevice pa := rfl

/-! ### setCount -/

@[simp] theorem State.setCount_gpr (v : Word) : (s.setCount v).gpr = s.gpr := rfl
@[simp] theorem State.setCount_hi (v : Word) : (s.setCount v).hi = s.hi := rfl
@[simp] theorem State.setCount_lo (v : Word) : (s.setCount v).lo = s.lo := rfl
@[simp] theorem State.setCount_pc (v : Word) : (s.setCount v).pc = s.pc := rfl
@[simp] theorem State.setCount_npc (v : Word) : (s.setCount v).npc = s.npc := rfl
@[simp] theorem State.setCount_ds (v : Word) : (s.setCount v).ds = s.ds := rfl
@[simp] theorem State.setCount_badVAddr (v : Word) : (s.setCount v).badVAddr = s.badVAddr := rfl
@[simp] theorem State.setCount_count (v : Word) : (s.setCount v).count = v := rfl
@[simp] theorem State.setCount_compare (v : Word) : (s.setCount v).compare = s.compare := rfl
@[simp] theorem State.setCount_im (v : Word) : (s.setCount v).im = s.im := rfl
@[simp] theorem State.setCount_exl (v : Word) : (s.setCount v).exl = s.exl := rfl
@[simp] theorem State.setCount_ie (v : Word) : (s.setCount v).ie = s.ie := rfl
@[simp] theorem State.setCount_bd (v : Word) : (s.setCount v).bd = s.bd := rfl
@[simp] theorem State.setCount_ti (v : Word) : (s.setCount v).ti = if v = s.compare then s.tiRace else s.ti := rfl
@[simp] theorem State.setCount_ipSw (v : Word) : (s.setCount v).ipSw = s.ipSw := rfl
@[simp] theorem State.setCount_excCode (v : Word) : (s.setCount v).excCode = s.excCode := rfl
@[simp] theorem State.setCount_epc (v : Word) : (s.setCount v).epc = s.epc := rfl
@[simp] theorem State.setCount_hwInt (v : Word) : (s.setCount v).hwInt = s.hwInt := rfl
@[simp] theorem State.setCount_tiRace (v : Word) : (s.setCount v).tiRace = s.tiRace := rfl
@[simp] theorem State.setCount_deviceData (v : Word) : (s.setCount v).deviceData = s.deviceData := rfl
@[simp] theorem State.setCount_deviceFetch (v : Word) : (s.setCount v).deviceFetch = s.deviceFetch := rfl
@[simp] theorem State.setCount_deviceLog (v : Word) : (s.setCount v).deviceLog = s.deviceLog := rfl
@[simp] theorem State.setCount_stored (v : Word) : (s.setCount v).stored = s.stored := rfl
@[simp] theorem State.setCount_intHeld (v : Word) : (s.setCount v).intHeld = s.intHeld := rfl
@[simp] theorem State.setCount_inputs (v : Word) : (s.setCount v).inputs = s.inputs := rfl
@[simp] theorem State.setCount_moment (v : Word) : (s.setCount v).moment = s.moment := rfl
@[simp] theorem State.setCount_cfg (v : Word) : (s.setCount v).cfg = s.cfg := rfl
@[simp] theorem State.setCount_mem (v : Word) : (s.setCount v).mem = s.mem := rfl
@[simp] theorem State.setCount_reg (v : Word) (q : RegNum) : (s.setCount v).reg q = s.reg q := rfl
@[simp] theorem State.setCount_readByte (v : Word) (pa : Nat) : (s.setCount v).readByte pa = s.readByte pa := rfl
@[simp] theorem State.setCount_physAddr (v : Word) (a : Word) (k : Nat) : (s.setCount v).physAddr a k = s.physAddr a k := rfl
@[simp] theorem State.setCount_isDevice (v : Word) (pa : Nat) : (s.setCount v).isDevice pa = s.isDevice pa := rfl

/-! ### setCompare -/

@[simp] theorem State.setCompare_gpr (v : Word) : (s.setCompare v).gpr = s.gpr := rfl
@[simp] theorem State.setCompare_hi (v : Word) : (s.setCompare v).hi = s.hi := rfl
@[simp] theorem State.setCompare_lo (v : Word) : (s.setCompare v).lo = s.lo := rfl
@[simp] theorem State.setCompare_pc (v : Word) : (s.setCompare v).pc = s.pc := rfl
@[simp] theorem State.setCompare_npc (v : Word) : (s.setCompare v).npc = s.npc := rfl
@[simp] theorem State.setCompare_ds (v : Word) : (s.setCompare v).ds = s.ds := rfl
@[simp] theorem State.setCompare_badVAddr (v : Word) : (s.setCompare v).badVAddr = s.badVAddr := rfl
@[simp] theorem State.setCompare_count (v : Word) : (s.setCompare v).count = s.count := rfl
@[simp] theorem State.setCompare_compare (v : Word) : (s.setCompare v).compare = v := rfl
@[simp] theorem State.setCompare_im (v : Word) : (s.setCompare v).im = s.im := rfl
@[simp] theorem State.setCompare_exl (v : Word) : (s.setCompare v).exl = s.exl := rfl
@[simp] theorem State.setCompare_ie (v : Word) : (s.setCompare v).ie = s.ie := rfl
@[simp] theorem State.setCompare_bd (v : Word) : (s.setCompare v).bd = s.bd := rfl
@[simp] theorem State.setCompare_ti (v : Word) : (s.setCompare v).ti = if v = s.count then s.tiRace else false := rfl
@[simp] theorem State.setCompare_ipSw (v : Word) : (s.setCompare v).ipSw = s.ipSw := rfl
@[simp] theorem State.setCompare_excCode (v : Word) : (s.setCompare v).excCode = s.excCode := rfl
@[simp] theorem State.setCompare_epc (v : Word) : (s.setCompare v).epc = s.epc := rfl
@[simp] theorem State.setCompare_hwInt (v : Word) : (s.setCompare v).hwInt = s.hwInt := rfl
@[simp] theorem State.setCompare_tiRace (v : Word) : (s.setCompare v).tiRace = s.tiRace := rfl
@[simp] theorem State.setCompare_deviceData (v : Word) : (s.setCompare v).deviceData = s.deviceData := rfl
@[simp] theorem State.setCompare_deviceFetch (v : Word) : (s.setCompare v).deviceFetch = s.deviceFetch := rfl
@[simp] theorem State.setCompare_deviceLog (v : Word) : (s.setCompare v).deviceLog = s.deviceLog := rfl
@[simp] theorem State.setCompare_stored (v : Word) : (s.setCompare v).stored = s.stored := rfl
@[simp] theorem State.setCompare_intHeld (v : Word) : (s.setCompare v).intHeld = s.intHeld := rfl
@[simp] theorem State.setCompare_inputs (v : Word) : (s.setCompare v).inputs = s.inputs := rfl
@[simp] theorem State.setCompare_moment (v : Word) : (s.setCompare v).moment = s.moment := rfl
@[simp] theorem State.setCompare_cfg (v : Word) : (s.setCompare v).cfg = s.cfg := rfl
@[simp] theorem State.setCompare_mem (v : Word) : (s.setCompare v).mem = s.mem := rfl
@[simp] theorem State.setCompare_reg (v : Word) (q : RegNum) : (s.setCompare v).reg q = s.reg q := rfl
@[simp] theorem State.setCompare_readByte (v : Word) (pa : Nat) : (s.setCompare v).readByte pa = s.readByte pa := rfl
@[simp] theorem State.setCompare_physAddr (v : Word) (a : Word) (k : Nat) : (s.setCompare v).physAddr a k = s.physAddr a k := rfl
@[simp] theorem State.setCompare_isDevice (v : Word) (pa : Nat) : (s.setCompare v).isDevice pa = s.isDevice pa := rfl

/-! ### setStatus -/

@[simp] theorem State.setStatus_gpr (v : Word) : (s.setStatus v).gpr = s.gpr := rfl
@[simp] theorem State.setStatus_hi (v : Word) : (s.setStatus v).hi = s.hi := rfl
@[simp] theorem State.setStatus_lo (v : Word) : (s.setStatus v).lo = s.lo := rfl
@[simp] theorem State.setStatus_pc (v : Word) : (s.setStatus v).pc = s.pc := rfl
@[simp] theorem State.setStatus_npc (v : Word) : (s.setStatus v).npc = s.npc := rfl
@[simp] theorem State.setStatus_ds (v : Word) : (s.setStatus v).ds = s.ds := rfl
@[simp] theorem State.setStatus_badVAddr (v : Word) : (s.setStatus v).badVAddr = s.badVAddr := rfl
@[simp] theorem State.setStatus_count (v : Word) : (s.setStatus v).count = s.count := rfl
@[simp] theorem State.setStatus_compare (v : Word) : (s.setStatus v).compare = s.compare := rfl
@[simp] theorem State.setStatus_im (v : Word) : (s.setStatus v).im = v.extractLsb' 8 8 := rfl
@[simp] theorem State.setStatus_exl (v : Word) : (s.setStatus v).exl = v.getLsbD 1 := rfl
@[simp] theorem State.setStatus_ie (v : Word) : (s.setStatus v).ie = v.getLsbD 0 := rfl
@[simp] theorem State.setStatus_bd (v : Word) : (s.setStatus v).bd = s.bd := rfl
@[simp] theorem State.setStatus_ti (v : Word) : (s.setStatus v).ti = s.ti := rfl
@[simp] theorem State.setStatus_ipSw (v : Word) : (s.setStatus v).ipSw = s.ipSw := rfl
@[simp] theorem State.setStatus_excCode (v : Word) : (s.setStatus v).excCode = s.excCode := rfl
@[simp] theorem State.setStatus_epc (v : Word) : (s.setStatus v).epc = s.epc := rfl
@[simp] theorem State.setStatus_hwInt (v : Word) : (s.setStatus v).hwInt = s.hwInt := rfl
@[simp] theorem State.setStatus_tiRace (v : Word) : (s.setStatus v).tiRace = s.tiRace := rfl
@[simp] theorem State.setStatus_deviceData (v : Word) : (s.setStatus v).deviceData = s.deviceData := rfl
@[simp] theorem State.setStatus_deviceFetch (v : Word) : (s.setStatus v).deviceFetch = s.deviceFetch := rfl
@[simp] theorem State.setStatus_deviceLog (v : Word) : (s.setStatus v).deviceLog = s.deviceLog := rfl
@[simp] theorem State.setStatus_stored (v : Word) : (s.setStatus v).stored = s.stored := rfl
@[simp] theorem State.setStatus_intHeld (v : Word) : (s.setStatus v).intHeld = s.intHeld := rfl
@[simp] theorem State.setStatus_inputs (v : Word) : (s.setStatus v).inputs = s.inputs := rfl
@[simp] theorem State.setStatus_moment (v : Word) : (s.setStatus v).moment = s.moment := rfl
@[simp] theorem State.setStatus_cfg (v : Word) : (s.setStatus v).cfg = s.cfg := rfl
@[simp] theorem State.setStatus_mem (v : Word) : (s.setStatus v).mem = s.mem := rfl
@[simp] theorem State.setStatus_reg (v : Word) (q : RegNum) : (s.setStatus v).reg q = s.reg q := rfl
@[simp] theorem State.setStatus_readByte (v : Word) (pa : Nat) : (s.setStatus v).readByte pa = s.readByte pa := rfl
@[simp] theorem State.setStatus_physAddr (v : Word) (a : Word) (k : Nat) : (s.setStatus v).physAddr a k = s.physAddr a k := rfl
@[simp] theorem State.setStatus_isDevice (v : Word) (pa : Nat) : (s.setStatus v).isDevice pa = s.isDevice pa := rfl

/-! ### setCause -/

@[simp] theorem State.setCause_gpr (v : Word) : (s.setCause v).gpr = s.gpr := rfl
@[simp] theorem State.setCause_hi (v : Word) : (s.setCause v).hi = s.hi := rfl
@[simp] theorem State.setCause_lo (v : Word) : (s.setCause v).lo = s.lo := rfl
@[simp] theorem State.setCause_pc (v : Word) : (s.setCause v).pc = s.pc := rfl
@[simp] theorem State.setCause_npc (v : Word) : (s.setCause v).npc = s.npc := rfl
@[simp] theorem State.setCause_ds (v : Word) : (s.setCause v).ds = s.ds := rfl
@[simp] theorem State.setCause_badVAddr (v : Word) : (s.setCause v).badVAddr = s.badVAddr := rfl
@[simp] theorem State.setCause_count (v : Word) : (s.setCause v).count = s.count := rfl
@[simp] theorem State.setCause_compare (v : Word) : (s.setCause v).compare = s.compare := rfl
@[simp] theorem State.setCause_im (v : Word) : (s.setCause v).im = s.im := rfl
@[simp] theorem State.setCause_exl (v : Word) : (s.setCause v).exl = s.exl := rfl
@[simp] theorem State.setCause_ie (v : Word) : (s.setCause v).ie = s.ie := rfl
@[simp] theorem State.setCause_bd (v : Word) : (s.setCause v).bd = s.bd := rfl
@[simp] theorem State.setCause_ti (v : Word) : (s.setCause v).ti = s.ti := rfl
@[simp] theorem State.setCause_ipSw (v : Word) : (s.setCause v).ipSw = v.extractLsb' 8 2 := rfl
@[simp] theorem State.setCause_excCode (v : Word) : (s.setCause v).excCode = s.excCode := rfl
@[simp] theorem State.setCause_epc (v : Word) : (s.setCause v).epc = s.epc := rfl
@[simp] theorem State.setCause_hwInt (v : Word) : (s.setCause v).hwInt = s.hwInt := rfl
@[simp] theorem State.setCause_tiRace (v : Word) : (s.setCause v).tiRace = s.tiRace := rfl
@[simp] theorem State.setCause_deviceData (v : Word) : (s.setCause v).deviceData = s.deviceData := rfl
@[simp] theorem State.setCause_deviceFetch (v : Word) : (s.setCause v).deviceFetch = s.deviceFetch := rfl
@[simp] theorem State.setCause_deviceLog (v : Word) : (s.setCause v).deviceLog = s.deviceLog := rfl
@[simp] theorem State.setCause_stored (v : Word) : (s.setCause v).stored = s.stored := rfl
@[simp] theorem State.setCause_intHeld (v : Word) : (s.setCause v).intHeld = s.intHeld := rfl
@[simp] theorem State.setCause_inputs (v : Word) : (s.setCause v).inputs = s.inputs := rfl
@[simp] theorem State.setCause_moment (v : Word) : (s.setCause v).moment = s.moment := rfl
@[simp] theorem State.setCause_cfg (v : Word) : (s.setCause v).cfg = s.cfg := rfl
@[simp] theorem State.setCause_mem (v : Word) : (s.setCause v).mem = s.mem := rfl
@[simp] theorem State.setCause_reg (v : Word) (q : RegNum) : (s.setCause v).reg q = s.reg q := rfl
@[simp] theorem State.setCause_readByte (v : Word) (pa : Nat) : (s.setCause v).readByte pa = s.readByte pa := rfl
@[simp] theorem State.setCause_physAddr (v : Word) (a : Word) (k : Nat) : (s.setCause v).physAddr a k = s.physAddr a k := rfl
@[simp] theorem State.setCause_isDevice (v : Word) (pa : Nat) : (s.setCause v).isDevice pa = s.isDevice pa := rfl

/-! ### setEpc -/

@[simp] theorem State.setEpc_gpr (v : Word) : (s.setEpc v).gpr = s.gpr := rfl
@[simp] theorem State.setEpc_hi (v : Word) : (s.setEpc v).hi = s.hi := rfl
@[simp] theorem State.setEpc_lo (v : Word) : (s.setEpc v).lo = s.lo := rfl
@[simp] theorem State.setEpc_pc (v : Word) : (s.setEpc v).pc = s.pc := rfl
@[simp] theorem State.setEpc_npc (v : Word) : (s.setEpc v).npc = s.npc := rfl
@[simp] theorem State.setEpc_ds (v : Word) : (s.setEpc v).ds = s.ds := rfl
@[simp] theorem State.setEpc_badVAddr (v : Word) : (s.setEpc v).badVAddr = s.badVAddr := rfl
@[simp] theorem State.setEpc_count (v : Word) : (s.setEpc v).count = s.count := rfl
@[simp] theorem State.setEpc_compare (v : Word) : (s.setEpc v).compare = s.compare := rfl
@[simp] theorem State.setEpc_im (v : Word) : (s.setEpc v).im = s.im := rfl
@[simp] theorem State.setEpc_exl (v : Word) : (s.setEpc v).exl = s.exl := rfl
@[simp] theorem State.setEpc_ie (v : Word) : (s.setEpc v).ie = s.ie := rfl
@[simp] theorem State.setEpc_bd (v : Word) : (s.setEpc v).bd = s.bd := rfl
@[simp] theorem State.setEpc_ti (v : Word) : (s.setEpc v).ti = s.ti := rfl
@[simp] theorem State.setEpc_ipSw (v : Word) : (s.setEpc v).ipSw = s.ipSw := rfl
@[simp] theorem State.setEpc_excCode (v : Word) : (s.setEpc v).excCode = s.excCode := rfl
@[simp] theorem State.setEpc_epc (v : Word) : (s.setEpc v).epc = v := rfl
@[simp] theorem State.setEpc_hwInt (v : Word) : (s.setEpc v).hwInt = s.hwInt := rfl
@[simp] theorem State.setEpc_tiRace (v : Word) : (s.setEpc v).tiRace = s.tiRace := rfl
@[simp] theorem State.setEpc_deviceData (v : Word) : (s.setEpc v).deviceData = s.deviceData := rfl
@[simp] theorem State.setEpc_deviceFetch (v : Word) : (s.setEpc v).deviceFetch = s.deviceFetch := rfl
@[simp] theorem State.setEpc_deviceLog (v : Word) : (s.setEpc v).deviceLog = s.deviceLog := rfl
@[simp] theorem State.setEpc_stored (v : Word) : (s.setEpc v).stored = s.stored := rfl
@[simp] theorem State.setEpc_intHeld (v : Word) : (s.setEpc v).intHeld = s.intHeld := rfl
@[simp] theorem State.setEpc_inputs (v : Word) : (s.setEpc v).inputs = s.inputs := rfl
@[simp] theorem State.setEpc_moment (v : Word) : (s.setEpc v).moment = s.moment := rfl
@[simp] theorem State.setEpc_cfg (v : Word) : (s.setEpc v).cfg = s.cfg := rfl
@[simp] theorem State.setEpc_mem (v : Word) : (s.setEpc v).mem = s.mem := rfl
@[simp] theorem State.setEpc_reg (v : Word) (q : RegNum) : (s.setEpc v).reg q = s.reg q := rfl
@[simp] theorem State.setEpc_readByte (v : Word) (pa : Nat) : (s.setEpc v).readByte pa = s.readByte pa := rfl
@[simp] theorem State.setEpc_physAddr (v : Word) (a : Word) (k : Nat) : (s.setEpc v).physAddr a k = s.physAddr a k := rfl
@[simp] theorem State.setEpc_isDevice (v : Word) (pa : Nat) : (s.setEpc v).isDevice pa = s.isDevice pa := rfl

/-! ### tick -/

@[simp] theorem State.tick_gpr (n : Nat) : (s.tick n).gpr = s.gpr := rfl
@[simp] theorem State.tick_hi (n : Nat) : (s.tick n).hi = s.hi := rfl
@[simp] theorem State.tick_lo (n : Nat) : (s.tick n).lo = s.lo := rfl
@[simp] theorem State.tick_pc (n : Nat) : (s.tick n).pc = s.pc := rfl
@[simp] theorem State.tick_npc (n : Nat) : (s.tick n).npc = s.npc := rfl
@[simp] theorem State.tick_ds (n : Nat) : (s.tick n).ds = s.ds := rfl
@[simp] theorem State.tick_badVAddr (n : Nat) : (s.tick n).badVAddr = s.badVAddr := rfl
@[simp] theorem State.tick_count (n : Nat) : (s.tick n).count = s.count + BitVec.ofNat 32 n := rfl
@[simp] theorem State.tick_compare (n : Nat) : (s.tick n).compare = s.compare := rfl
@[simp] theorem State.tick_im (n : Nat) : (s.tick n).im = s.im := rfl
@[simp] theorem State.tick_exl (n : Nat) : (s.tick n).exl = s.exl := rfl
@[simp] theorem State.tick_ie (n : Nat) : (s.tick n).ie = s.ie := rfl
@[simp] theorem State.tick_bd (n : Nat) : (s.tick n).bd = s.bd := rfl
@[simp] theorem State.tick_ti (n : Nat) : (s.tick n).ti = (s.ti || reaches s.count s.compare n) := rfl
@[simp] theorem State.tick_ipSw (n : Nat) : (s.tick n).ipSw = s.ipSw := rfl
@[simp] theorem State.tick_excCode (n : Nat) : (s.tick n).excCode = s.excCode := rfl
@[simp] theorem State.tick_epc (n : Nat) : (s.tick n).epc = s.epc := rfl
@[simp] theorem State.tick_hwInt (n : Nat) : (s.tick n).hwInt = s.hwInt := rfl
@[simp] theorem State.tick_tiRace (n : Nat) : (s.tick n).tiRace = s.tiRace := rfl
@[simp] theorem State.tick_deviceData (n : Nat) : (s.tick n).deviceData = s.deviceData := rfl
@[simp] theorem State.tick_deviceFetch (n : Nat) : (s.tick n).deviceFetch = s.deviceFetch := rfl
@[simp] theorem State.tick_deviceLog (n : Nat) : (s.tick n).deviceLog = s.deviceLog := rfl
@[simp] theorem State.tick_stored (n : Nat) : (s.tick n).stored = s.stored := rfl
@[simp] theorem State.tick_intHeld (n : Nat) : (s.tick n).intHeld = s.intHeld := rfl
@[simp] theorem State.tick_inputs (n : Nat) : (s.tick n).inputs = s.inputs := rfl
@[simp] theorem State.tick_moment (n : Nat) : (s.tick n).moment = s.moment := rfl
@[simp] theorem State.tick_cfg (n : Nat) : (s.tick n).cfg = s.cfg := rfl
@[simp] theorem State.tick_mem (n : Nat) : (s.tick n).mem = s.mem := rfl
@[simp] theorem State.tick_reg (n : Nat) (q : RegNum) : (s.tick n).reg q = s.reg q := rfl
@[simp] theorem State.tick_readByte (n : Nat) (pa : Nat) : (s.tick n).readByte pa = s.readByte pa := rfl
@[simp] theorem State.tick_physAddr (n : Nat) (a : Word) (k : Nat) : (s.tick n).physAddr a k = s.physAddr a k := rfl
@[simp] theorem State.tick_isDevice (n : Nat) (pa : Nat) : (s.tick n).isDevice pa = s.isDevice pa := rfl

/-! ### sample -/

@[simp] theorem State.sample_gpr : (s.sample).gpr = s.gpr := rfl
@[simp] theorem State.sample_hi : (s.sample).hi = s.hi := rfl
@[simp] theorem State.sample_lo : (s.sample).lo = s.lo := rfl
@[simp] theorem State.sample_pc : (s.sample).pc = s.pc := rfl
@[simp] theorem State.sample_npc : (s.sample).npc = s.npc := rfl
@[simp] theorem State.sample_ds : (s.sample).ds = s.ds := rfl
@[simp] theorem State.sample_badVAddr : (s.sample).badVAddr = s.badVAddr := rfl
@[simp] theorem State.sample_count : (s.sample).count = s.count + BitVec.ofNat 32 s.input.ticks := rfl
@[simp] theorem State.sample_compare : (s.sample).compare = s.compare := rfl
@[simp] theorem State.sample_im : (s.sample).im = s.im := rfl
@[simp] theorem State.sample_exl : (s.sample).exl = s.exl := rfl
@[simp] theorem State.sample_ie : (s.sample).ie = s.ie := rfl
@[simp] theorem State.sample_bd : (s.sample).bd = s.bd := rfl
@[simp] theorem State.sample_ti : (s.sample).ti = (s.ti || reaches s.count s.compare s.input.ticks) := rfl
@[simp] theorem State.sample_ipSw : (s.sample).ipSw = s.ipSw := rfl
@[simp] theorem State.sample_excCode : (s.sample).excCode = s.excCode := rfl
@[simp] theorem State.sample_epc : (s.sample).epc = s.epc := rfl
@[simp] theorem State.sample_hwInt : (s.sample).hwInt = s.input.pins := rfl
@[simp] theorem State.sample_tiRace : (s.sample).tiRace = s.input.tiRace := rfl
@[simp] theorem State.sample_deviceData : (s.sample).deviceData = s.input.deviceData := rfl
@[simp] theorem State.sample_deviceFetch : (s.sample).deviceFetch = s.input.deviceFetch := rfl
@[simp] theorem State.sample_deviceLog : (s.sample).deviceLog = s.deviceLog := rfl
@[simp] theorem State.sample_stored : (s.sample).stored = s.stored := rfl
@[simp] theorem State.sample_intHeld : (s.sample).intHeld = s.intHeld := rfl
@[simp] theorem State.sample_inputs : (s.sample).inputs = s.inputs.tail := rfl
@[simp] theorem State.sample_moment : (s.sample).moment = s.moment + 1 := rfl
@[simp] theorem State.sample_cfg : (s.sample).cfg = s.cfg := rfl
@[simp] theorem State.sample_mem : (s.sample).mem = s.mem := rfl
@[simp] theorem State.sample_reg (q : RegNum) : (s.sample).reg q = s.reg q := rfl
@[simp] theorem State.sample_readByte (pa : Nat) : (s.sample).readByte pa = s.readByte pa := rfl
@[simp] theorem State.sample_physAddr (a : Word) (k : Nat) : (s.sample).physAddr a k = s.physAddr a k := rfl
@[simp] theorem State.sample_isDevice (pa : Nat) : (s.sample).isDevice pa = s.isDevice pa := rfl

/-! ### noteHeld -/

@[simp] theorem State.noteHeld_gpr : (s.noteHeld).gpr = s.gpr := rfl
@[simp] theorem State.noteHeld_hi : (s.noteHeld).hi = s.hi := rfl
@[simp] theorem State.noteHeld_lo : (s.noteHeld).lo = s.lo := rfl
@[simp] theorem State.noteHeld_pc : (s.noteHeld).pc = s.pc := rfl
@[simp] theorem State.noteHeld_npc : (s.noteHeld).npc = s.npc := rfl
@[simp] theorem State.noteHeld_ds : (s.noteHeld).ds = s.ds := rfl
@[simp] theorem State.noteHeld_badVAddr : (s.noteHeld).badVAddr = s.badVAddr := rfl
@[simp] theorem State.noteHeld_count : (s.noteHeld).count = s.count := rfl
@[simp] theorem State.noteHeld_compare : (s.noteHeld).compare = s.compare := rfl
@[simp] theorem State.noteHeld_im : (s.noteHeld).im = s.im := rfl
@[simp] theorem State.noteHeld_exl : (s.noteHeld).exl = s.exl := rfl
@[simp] theorem State.noteHeld_ie : (s.noteHeld).ie = s.ie := rfl
@[simp] theorem State.noteHeld_bd : (s.noteHeld).bd = s.bd := rfl
@[simp] theorem State.noteHeld_ti : (s.noteHeld).ti = s.ti := rfl
@[simp] theorem State.noteHeld_ipSw : (s.noteHeld).ipSw = s.ipSw := rfl
@[simp] theorem State.noteHeld_excCode : (s.noteHeld).excCode = s.excCode := rfl
@[simp] theorem State.noteHeld_epc : (s.noteHeld).epc = s.epc := rfl
@[simp] theorem State.noteHeld_hwInt : (s.noteHeld).hwInt = s.hwInt := rfl
@[simp] theorem State.noteHeld_tiRace : (s.noteHeld).tiRace = s.tiRace := rfl
@[simp] theorem State.noteHeld_deviceData : (s.noteHeld).deviceData = s.deviceData := rfl
@[simp] theorem State.noteHeld_deviceFetch : (s.noteHeld).deviceFetch = s.deviceFetch := rfl
@[simp] theorem State.noteHeld_deviceLog : (s.noteHeld).deviceLog = s.deviceLog := rfl
@[simp] theorem State.noteHeld_stored : (s.noteHeld).stored = s.stored := rfl
@[simp] theorem State.noteHeld_intHeld : (s.noteHeld).intHeld = if s.interruptPending then s.intHeld + 1 else 0 := rfl
@[simp] theorem State.noteHeld_inputs : (s.noteHeld).inputs = s.inputs := rfl
@[simp] theorem State.noteHeld_moment : (s.noteHeld).moment = s.moment := rfl
@[simp] theorem State.noteHeld_cfg : (s.noteHeld).cfg = s.cfg := rfl
@[simp] theorem State.noteHeld_mem : (s.noteHeld).mem = s.mem := rfl
@[simp] theorem State.noteHeld_reg (q : RegNum) : (s.noteHeld).reg q = s.reg q := rfl
@[simp] theorem State.noteHeld_readByte (pa : Nat) : (s.noteHeld).readByte pa = s.readByte pa := rfl
@[simp] theorem State.noteHeld_physAddr (a : Word) (k : Nat) : (s.noteHeld).physAddr a k = s.physAddr a k := rfl
@[simp] theorem State.noteHeld_isDevice (pa : Nat) : (s.noteHeld).isDevice pa = s.isDevice pa := rfl

/-! ### takeInterrupt -/

@[simp] theorem State.takeInterrupt_gpr : (s.takeInterrupt).gpr = s.gpr := rfl
@[simp] theorem State.takeInterrupt_hi : (s.takeInterrupt).hi = s.hi := rfl
@[simp] theorem State.takeInterrupt_lo : (s.takeInterrupt).lo = s.lo := rfl
@[simp] theorem State.takeInterrupt_pc : (s.takeInterrupt).pc = exceptionVector := rfl
@[simp] theorem State.takeInterrupt_npc : (s.takeInterrupt).npc = exceptionVector + 4 := rfl
@[simp] theorem State.takeInterrupt_ds : (s.takeInterrupt).ds = false := rfl
@[simp] theorem State.takeInterrupt_badVAddr : (s.takeInterrupt).badVAddr = s.badVAddr := rfl
@[simp] theorem State.takeInterrupt_count : (s.takeInterrupt).count = s.count := rfl
@[simp] theorem State.takeInterrupt_compare : (s.takeInterrupt).compare = s.compare := rfl
@[simp] theorem State.takeInterrupt_im : (s.takeInterrupt).im = s.im := rfl
@[simp] theorem State.takeInterrupt_exl : (s.takeInterrupt).exl = true := rfl
@[simp] theorem State.takeInterrupt_ie : (s.takeInterrupt).ie = s.ie := rfl
@[simp] theorem State.takeInterrupt_bd : (s.takeInterrupt).bd = if s.exl then s.bd else s.ds := rfl
@[simp] theorem State.takeInterrupt_ti : (s.takeInterrupt).ti = s.ti := rfl
@[simp] theorem State.takeInterrupt_ipSw : (s.takeInterrupt).ipSw = s.ipSw := rfl
@[simp] theorem State.takeInterrupt_excCode : (s.takeInterrupt).excCode = ExcCode.int.code := rfl
@[simp] theorem State.takeInterrupt_epc : (s.takeInterrupt).epc = if s.exl then s.epc else if s.ds then s.pc - 4 else s.pc := rfl
@[simp] theorem State.takeInterrupt_hwInt : (s.takeInterrupt).hwInt = s.hwInt := rfl
@[simp] theorem State.takeInterrupt_tiRace : (s.takeInterrupt).tiRace = s.tiRace := rfl
@[simp] theorem State.takeInterrupt_deviceData : (s.takeInterrupt).deviceData = s.deviceData := rfl
@[simp] theorem State.takeInterrupt_deviceFetch : (s.takeInterrupt).deviceFetch = s.deviceFetch := rfl
@[simp] theorem State.takeInterrupt_deviceLog : (s.takeInterrupt).deviceLog = s.deviceLog := rfl
@[simp] theorem State.takeInterrupt_stored : (s.takeInterrupt).stored = s.stored := rfl
@[simp] theorem State.takeInterrupt_intHeld : (s.takeInterrupt).intHeld = 0 := rfl
@[simp] theorem State.takeInterrupt_inputs : (s.takeInterrupt).inputs = s.inputs := rfl
@[simp] theorem State.takeInterrupt_moment : (s.takeInterrupt).moment = s.moment := rfl
@[simp] theorem State.takeInterrupt_cfg : (s.takeInterrupt).cfg = s.cfg := rfl
@[simp] theorem State.takeInterrupt_mem : (s.takeInterrupt).mem = s.mem := rfl
@[simp] theorem State.takeInterrupt_reg (q : RegNum) : (s.takeInterrupt).reg q = s.reg q := rfl
@[simp] theorem State.takeInterrupt_readByte (pa : Nat) : (s.takeInterrupt).readByte pa = s.readByte pa := rfl
@[simp] theorem State.takeInterrupt_physAddr (a : Word) (k : Nat) : (s.takeInterrupt).physAddr a k = s.physAddr a k := rfl
@[simp] theorem State.takeInterrupt_isDevice (pa : Nat) : (s.takeInterrupt).isDevice pa = s.isDevice pa := rfl

end Sys2Proof.Machine
end

