-- ==== Sys2Proof/Laws/Ops.lean ====
section
/-! SUPPORT. For each shared operation, what it can do, said once: a proof about an instruction cites these lemmas and
does not unfold the operation. -/

namespace Sys2Proof.Machine

variable (s t : State)

/-! ### Registers -/

/-- r0 reads 0 in every state. -/
@[simp] theorem State.reg_zero : s.reg 0#5 = 0#32 := rfl

/-- A register after a write: the value written, unless the destination is r0; every other register as before. -/
theorem State.reg_setReg (r q : RegNum) (v : Word) :
    (s.setReg r v).reg q = if q = r ∧ r ≠ 0#5 then v else s.reg q := by
  by_cases hr : r = 0#5
  · subst hr; simp [State.reg, State.setReg]
  · by_cases hq : q = r
    · subst hq; simp [State.reg, State.setReg, hr]
    · have hne : r.toNat ≠ q.toNat := fun h => hq (BitVec.eq_of_toNat_eq h.symm)
      simp [State.reg, State.setReg, hr, hq, Vector.getElem_set_ne, hne]

/-- The unused slot of r0 is never written. -/
theorem State.slot_setReg (r : RegNum) (v : Word) : (s.setReg r v).gpr[0] = s.gpr[0] := by
  by_cases hr : r = 0#5
  · simp [State.setReg, hr]
  · have : r.toNat ≠ 0 := fun h => hr (BitVec.eq_of_toNat_eq (by simpa using h))
    simp [State.setReg, hr, Vector.getElem_set_ne, this]

/-! ### The end of an instruction -/

theorem State.done_next : s.done = .next t ↔ t = s.advance := by
  simp [State.done, eq_comm]

theorem State.doneReg_next (r : RegNum) (v : Word) : s.doneReg r v = .next t ↔ t = (s.setReg r v).advance := by
  simp [State.doneReg, State.done, eq_comm]

/-- An instruction that may overflow: it traps, or it writes the low 32 bits. -/
theorem State.doneUnlessOverflow_next (r : RegNum) (x : BitVec 33) :
    s.doneUnlessOverflow r x = .next t ↔
      (overflows x = true ∧ t = s.enterException .ov none) ∨
      (overflows x = false ∧ t = (s.setReg r (x.setWidth 32)).advance) := by
  cases h : overflows x <;> simp [State.doneUnlessOverflow, h, State.raise, State.doneReg, State.done, eq_comm]

/-- A branch or jump completes only outside a delay slot. -/
theorem State.transfer_next (c : Bool) (a : Word) :
    s.transfer c a = .next t ↔ s.ds = false ∧ t = s.branchTo c a := by
  cases h : s.ds <;> simp [State.transfer, h, eq_comm]

/-- A linking branch or jump completes only outside a delay slot. -/
theorem State.transferLink_next (r : RegNum) (c : Bool) (a : Word) :
    s.transferLink r c a = .next t ↔ s.ds = false ∧ t = (s.setReg r (linkAddr s.pc)).branchTo c a := by
  cases h : s.ds <;> simp [State.transferLink, h, eq_comm]

theorem State.raise_next (c : ExcCode) : s.raise c = .next t ↔ t = s.enterException c none := by
  simp [State.raise, eq_comm]

theorem State.raiseAddress_next (c : ExcCode) (va : Word) :
    s.raiseAddress c va = .next t ↔ t = s.enterException c (some va) := by
  simp [State.raiseAddress, eq_comm]

/-! ### Memory access -/

/-- The bytes of an access lie at distinct addresses. -/
theorem State.physAddr_inj (va : Word) (j k : Nat) (h : s.physAddr va j = s.physAddr va k) : j = k :=
  Nat.add_left_cancel h

@[simp] theorem State.physAddrs_length (va : Word) (n : Nat) : (s.physAddrs va n).length = n := by
  simp [State.physAddrs]

theorem State.physAddrs_getElem (va : Word) (n k : Nat) (h : k < (s.physAddrs va n).length) :
    (s.physAddrs va n)[k] = s.physAddr va k := by
  simp [State.physAddrs]

theorem State.mem_physAddrs (va : Word) (n a : Nat) : a ∈ s.physAddrs va n ↔ ∃ k < n, s.physAddr va k = a := by
  simp [State.physAddrs]

theorem State.physAddrs_nodup (va : Word) (n : Nat) : (s.physAddrs va n).Nodup :=
  List.Nodup.map_on (fun j _ k _ h => s.physAddr_inj va j k h) List.nodup_range

/-- An access completes exactly where memory or a device is behind every byte. -/
theorem State.withAccess_next (va : Word) (n : Nat) (k : Res) :
    s.withAccess va n k = .next t ↔ s.backed va n = true ∧ k = .next t := by
  unfold State.withAccess State.backed
  split <;> simp_all

theorem State.withAccess_of_backed (va : Word) (n : Nat) (k : Res) (h : s.backed va n = true) :
    s.withAccess va n k = k := by
  unfold State.backed at h
  unfold State.withAccess
  split <;> simp_all

/-- An access is backed exactly where no byte has nothing behind it. -/
theorem State.backed_iff (va : Word) (n : Nat) :
    s.backed va n = true ↔ ∀ k < n, windowAt s.cfg (s.physAddr va k) ≠ some .unbacked := by
  simp [State.backed, firstUnbacked, State.physAddrs]

theorem State.load_next (r : RegNum) (va : Word) (n : Nat) (f : Word → Word) :
    s.load r va n f = .next t ↔
      s.backed va n = true ∧ t = ((s.noteRead va n).setReg r (f (s.memRead va n))).advance := by
  rw [State.load, State.withAccess_next, State.doneReg_next]

theorem State.loadAligned_next (ok : Bool) (r : RegNum) (va : Word) (n : Nat) (f : Word → Word) :
    s.loadAligned ok r va n f = .next t ↔
      (ok = false ∧ t = s.enterException .adEL (some va)) ∨
      (ok = true ∧ s.backed va n = true ∧ t = ((s.noteRead va n).setReg r (f (s.memRead va n))).advance) := by
  cases ok <;> simp [State.loadAligned, State.load_next, State.raiseAddress_next]

theorem State.store_next (va : Word) (n : Nat) (v : Word) :
    s.store va n v = .next t ↔ s.backed va n = true ∧ t = (s.memWrite va n v).advance := by
  rw [State.store, State.withAccess_next, State.done_next]

theorem State.storeAligned_next (ok : Bool) (va : Word) (n : Nat) (v : Word) :
    s.storeAligned ok va n v = .next t ↔
      (ok = false ∧ t = s.enterException .adES (some va)) ∨
      (ok = true ∧ s.backed va n = true ∧ t = (s.memWrite va n v).advance) := by
  cases ok <;> simp [State.storeAligned, State.store_next, State.raiseAddress_next]

/-- A write leaves each of its bytes of memory where it belongs. -/
theorem State.readByte_memWrite (va : Word) (n : Nat) (v : Word) (k : Nat) (hk : k < n)
    (hd : s.isDevice (s.physAddr va k) = false) :
    (s.memWrite va n v).readByte (s.physAddr va k) = byteOf v k := by
  have hl : k < (s.physAddrs va n).length := by simpa using hk
  have e : (v >>> (8 * k)).setWidth 8 = byteOf v k := by
    apply BitVec.eq_of_getLsbD_eq
    intro i hi
    simp [byteOf, hi]
  rw [← e, ← s.physAddrs_getElem va n k hl]
  refine Memory.byte_setBytes _ _ _ _ (s.physAddrs_nodup va n) k hl ?_
  rw [s.physAddrs_getElem va n k hl, hd]; rfl

/-- A write leaves every other byte alone, and what memory lists at a device's address. -/
theorem State.readByte_memWrite_of_ne (va : Word) (n : Nat) (v : Word) (a : Nat)
    (h : (∀ k < n, a ≠ s.physAddr va k) ∨ s.isDevice a = true) :
    (s.memWrite va n v).readByte a = s.readByte a := by
  refine Memory.byte_setBytes_of_notMem _ _ _ _ _ (h.imp (fun h => ?_) (fun h => by rw [h]; rfl))
  rw [State.mem_physAddrs]
  rintro ⟨k, hk, rfl⟩
  exact h k hk rfl

/-- A write keeps the canonical form of the memory. -/
theorem State.memWrite_wf (va : Word) (n : Nat) (v : Word) (h : s.mem.wf) : (s.memWrite va n v).mem.wf :=
  Memory.wf_setBytes _ _ _ _ h

/-- A write lists no new addresses but those of its bytes. -/
theorem State.mem_memWrite (va : Word) (n : Nat) (v : Word) (c : Host.Cell) (h : c ∈ (s.memWrite va n v).mem) :
    (∃ k < n, s.physAddr va k = c.1) ∨ c ∈ s.mem :=
  (Memory.mem_setBytes_addr _ _ _ _ c h).imp_left (s.mem_physAddrs va n c.1).mp

/-- The addresses stored to, after a write. -/
theorem State.mem_stored_memWrite (va : Word) (n : Nat) (v : Word) (a : Nat) :
    a ∈ (s.memWrite va n v).stored ↔ a ∈ s.stored ∨ ∃ k, k < n ∧ a = s.physAddr va k := by
  rw [State.memWrite_stored, mem_insertAddrs, State.mem_physAddrs]
  simp only [eq_comm]

/-! ### Devices -/

/-- The log after a read: one event more exactly where the access touches a device. -/
theorem State.readLog_eq (va : Word) (n : Nat) :
    s.readLog va n =
      if s.touchesDevice va n then .read ((s.physAddrs va n).filter s.isDevice) :: s.deviceLog else s.deviceLog := by
  unfold State.readLog State.touchesDevice
  split
  · rename_i h
    rw [if_neg]
    simpa [List.filter_eq_nil_iff] using h
  · rename_i h
    rw [if_pos]
    simpa [List.filter_eq_nil_iff] using h

/-- The log after a write: one event more exactly where the access touches a device. -/
theorem State.writeLog_eq (va : Word) (n : Nat) (v : Word) :
    s.writeLog va n v =
      if s.touchesDevice va n then .write (s.deviceCells va n v) :: s.deviceLog else s.deviceLog := by
  have e : s.deviceCells va n v = [] ↔ s.touchesDevice va n = false := by
    simp [State.deviceCells, State.touchesDevice, State.physAddrs, List.filter_eq_nil_iff]
  unfold State.writeLog
  split
  · rename_i h
    rw [if_neg (by simp [e.mp h])]
  · rename_i h
    rw [if_pos (by simpa [e] using h)]

/-! ### The CP0 registers -/

/-- What a write of a CP0 register can be, and by which number and select. -/
theorem State.writeCp0_cases (rd : BitVec 5) (sel : BitVec 3) (v : Word) :
    s.writeCp0 rd sel v = s ∨ (rd = 9#5 ∧ sel = 0#3 ∧ s.writeCp0 rd sel v = s.setCount v) ∨
      (rd = 11#5 ∧ sel = 0#3 ∧ s.writeCp0 rd sel v = s.setCompare v) ∨
      (rd = 12#5 ∧ sel = 0#3 ∧ s.writeCp0 rd sel v = s.setStatus v) ∨
      (rd = 13#5 ∧ sel = 0#3 ∧ s.writeCp0 rd sel v = s.setCause v) ∨
      (rd = 14#5 ∧ sel = 0#3 ∧ s.writeCp0 rd sel v = s.setEpc v) := by
  unfold State.writeCp0
  cases h : cp0Reg rd sel with
  | none => exact .inl rfl
  | some r =>
    unfold cp0Reg at h
    by_cases hs : sel = 0#3
    · subst hs
      simp only [BitVec.ofNat_eq_ofNat, beq_self_eq_true, if_true] at h
      split at h <;> cases h <;> simp
    · simp [hs] at h

/-- Bit n of Cause.IP is line n. -/
theorem State.interruptLines_getLsbD (n : Nat) (h : n < 8) : s.interruptLines.getLsbD n = s.lineActive n := by
  have e : s.interruptLines.getLsbD n = (if n < 2 then s.ipSw.getLsbD n else
      if n - 2 < 5 then (s.hwInt.extractLsb' 0 5).getLsbD (n - 2)
      else (BitVec.ofBool (s.hwInt.getLsbD 5 || s.ti)).getLsbD (n - 2 - 5)) := by
    rw [← BitVec.getLsbD_append, ← BitVec.getLsbD_append]; rfl
  rw [e]
  unfold State.lineActive
  interval_cases n <;> simp

/-! ### One step -/

/-- Part 1 of a step touches nothing that decides whether the fetch can be made. -/
@[simp] theorem State.sample_backed (va : Word) (n : Nat) : s.sample.backed va n = s.backed va n := rfl
@[simp] theorem State.noteHeld_backed (va : Word) (n : Nat) : s.noteHeld.backed va n = s.backed va n := rfl
@[simp] theorem State.sample_fetchSees : s.sample.fetchSees = s.fetchSees := rfl
@[simp] theorem State.noteHeld_fetchSees : s.noteHeld.fetchSees = s.fetchSees := rfl
@[simp] theorem State.noteHeld_fetchBytes : s.noteHeld.fetchBytes = s.fetchBytes := rfl

theorem State.fetchRun_next :
    s.fetchRun = .next t ↔
      s.fetchSees = true ∧ (s.noteRead s.pc 4).runDecoded (decodeBytes s.fetchBytes) = .next t := by
  cases h : s.fetchSees <;> simp [State.fetchRun, h]

/-- What a step that answers a next state can have done: taken an interrupt; raised the fetch's address error; run the
decoded instruction, a reserved-field word included where the policy lets it run; or raised Reserved Instruction. -/
theorem step_cases (h : step s = .next t) :
    (s.sample.interruptTaken s.input.holdOff = true ∧ t = s.sample.takeInterrupt) ∨
    (s.sample.interruptTaken s.input.holdOff = false ∧ aligned4 s.pc = false ∧
      t = s.sample.noteHeld.enterException .adEL (some s.pc)) ∨
    (s.sample.interruptTaken s.input.holdOff = false ∧ aligned4 s.pc = true ∧ s.backed s.pc 4 = true ∧
      s.fetchSees = true ∧
      ((∃ i, (decodeBytes s.sample.fetchBytes = .instr i ∨
            decodeBytes s.sample.fetchBytes = .reservedField i ∧ s.cfg.reservedFields = .ignore) ∧
          exec i s.atExecute = .next t) ∨
        ((decodeBytes s.sample.fetchBytes = .unimplemented ∨
            ∃ i, decodeBytes s.sample.fetchBytes = .reservedField i ∧ s.cfg.reservedFields = .ri) ∧
          t = s.atExecute.enterException .ri none))) := by
  unfold step State.cycle at h
  cases hi : s.sample.interruptTaken s.input.holdOff
  · refine .inr ?_
    simp only [hi, Bool.false_eq_true, if_false] at h
    unfold State.fetchExecute at h
    cases ha : aligned4 s.pc
    · refine .inl ⟨rfl, rfl, ?_⟩
      simp only [State.noteHeld_pc, State.sample_pc, ha, Bool.false_eq_true, if_false] at h
      exact (State.raiseAddress_next _ _ _ _).mp h
    · refine .inr ⟨rfl, rfl, ?_⟩
      simp only [State.noteHeld_pc, State.sample_pc, ha, if_true] at h
      obtain ⟨hb, h⟩ := (State.withAccess_next _ _ _ _ _).mp h
      obtain ⟨hs, h⟩ := (State.fetchRun_next _ _).mp h
      refine ⟨hb, hs, ?_⟩
      change s.atExecute.runDecoded (decodeBytes s.sample.fetchBytes) = .next t at h
      have hc : s.atExecute.cfg = s.cfg := rfl
      unfold State.runDecoded at h
      cases hd : decodeBytes s.sample.fetchBytes with
      | instr i => rw [hd] at h; exact .inl ⟨i, .inl rfl, h⟩
      | unimplemented =>
        rw [hd] at h
        exact .inr ⟨.inl rfl, (State.raise_next _ _ _).mp h⟩
      | reservedField i =>
        rw [hd] at h
        simp only [hc] at h
        cases hp : s.cfg.reservedFields with
        | refuse => rw [hp] at h; simp at h
        | ri => rw [hp] at h; exact .inr ⟨.inr ⟨i, rfl, rfl⟩, (State.raise_next _ _ _).mp h⟩
        | ignore => rw [hp] at h; exact .inl ⟨i, .inr ⟨rfl, rfl⟩, h⟩
  · simp only [hi, if_true] at h
    exact .inl ⟨rfl, by simpa [eq_comm] using h⟩

end Sys2Proof.Machine
end

