-- ==== Sys2Proof/Laws/Frames.lean ====
section
/-! SUPPORT. The shapes of an instruction's effect: what a shared ending of Ops leaves, in the words of Safety.lean. -/

namespace Sys2Proof.Machine

variable (s : State)

theorem State.sameCp0_refl : s.SameCp0 s := ⟨rfl, rfl, rfl, rfl, rfl, rfl, rfl, rfl, rfl, rfl, rfl⟩

theorem State.sameSetting_refl : s.SameSetting s := ⟨rfl, rfl, rfl, rfl, rfl, rfl, rfl, rfl⟩

/-- The one lemma on registers the shapes need. -/
theorem State.regWritten_setReg (r : RegNum) (v : Word) : s.RegWritten (s.setReg r v) r v where
  value := fun h => by simp [State.reg_setReg, h]
  zero := rfl
  others := fun q h => by simp [State.reg_setReg, h]

/-- An instruction that ends by writing one register. -/
theorem State.wroteReg_advance (r : RegNum) (v : Word) : s.WroteReg (s.setReg r v).advance r v where
  goesOn := ⟨rfl, rfl, rfl⟩
  regs := ⟨(s.regWritten_setReg r v).value, rfl, (s.regWritten_setReg r v).others⟩
  hiLo := ⟨rfl, rfl⟩
  cp0 := ⟨rfl, rfl, rfl, rfl, rfl, rfl, rfl, rfl, rfl, rfl, rfl⟩
  memory := fun _ => rfl
  bus := ⟨rfl, rfl⟩
  setting := ⟨rfl, rfl, rfl, rfl, rfl, rfl, rfl, rfl⟩

/-- An instruction that ends with HI and LO set. -/
theorem State.wroteHiLo_advance (v : Config.HiLo) : s.WroteHiLo (s.setHiLo v).advance v.hi v.lo where
  goesOn := ⟨rfl, rfl, rfl⟩
  hi := rfl
  lo := rfl
  regs := fun _ => rfl
  cp0 := ⟨rfl, rfl, rfl, rfl, rfl, rfl, rfl, rfl, rfl, rfl, rfl⟩
  memory := fun _ => rfl
  bus := ⟨rfl, rfl⟩
  setting := ⟨rfl, rfl, rfl, rfl, rfl, rfl, rfl, rfl⟩

/-- A branch or jump that writes no register. -/
theorem State.branched_branchTo (taken : Bool) (target : Word) :
    s.Branched (s.branchTo taken target) (if taken then target else s.npc + 4) where
  transfers := ⟨rfl, rfl, rfl⟩
  regs := fun _ => rfl
  hiLo := ⟨rfl, rfl⟩
  cp0 := ⟨rfl, rfl, rfl, rfl, rfl, rfl, rfl, rfl, rfl, rfl, rfl⟩
  memory := fun _ => rfl
  bus := ⟨rfl, rfl⟩
  setting := ⟨rfl, rfl, rfl, rfl, rfl, rfl, rfl, rfl⟩

/-- A branch or jump that writes its link register. -/
theorem State.linked_branchTo (r : RegNum) (taken : Bool) (target : Word) :
    s.Linked ((s.setReg r (linkAddr s.pc)).branchTo taken target) r (if taken then target else s.npc + 4) where
  transfers := ⟨rfl, rfl, rfl⟩
  regs := ⟨(s.regWritten_setReg r _).value, rfl, (s.regWritten_setReg r _).others⟩
  hiLo := ⟨rfl, rfl⟩
  cp0 := ⟨rfl, rfl, rfl, rfl, rfl, rfl, rfl, rfl, rfl, rfl, rfl⟩
  memory := fun _ => rfl
  bus := ⟨rfl, rfl⟩
  setting := ⟨rfl, rfl, rfl, rfl, rfl, rfl, rfl, rfl⟩

/-- A load that ends with one general register written. -/
theorem State.loaded_advance (va : Word) (n : Nat) (r : RegNum) (v : Word) :
    s.Loaded ((s.noteRead va n).setReg r v).advance va n r v where
  goesOn := ⟨rfl, rfl, rfl⟩
  regs := ⟨(s.regWritten_setReg r v).value, rfl, (s.regWritten_setReg r v).others⟩
  device := s.readLog_eq va n
  stored := rfl
  hiLo := ⟨rfl, rfl⟩
  cp0 := ⟨rfl, rfl, rfl, rfl, rfl, rfl, rfl, rfl, rfl, rfl, rfl⟩
  memory := fun _ => rfl
  setting := ⟨rfl, rfl, rfl, rfl, rfl, rfl, rfl, rfl⟩

/-- A store of the n low bytes of a word. -/
theorem State.stored_advance (va : Word) (n : Nat) (v : Word) : s.Stored (s.memWrite va n v).advance va n (byteOf v) where
  goesOn := ⟨rfl, rfl, rfl⟩
  written := fun k hk hd => s.readByte_memWrite va n v k hk hd
  untouched := fun pa h => s.readByte_memWrite_of_ne va n v pa h
  device := s.writeLog_eq va n v
  stored := s.mem_stored_memWrite va n v
  regs := fun _ => rfl
  hiLo := ⟨rfl, rfl⟩
  cp0 := ⟨rfl, rfl, rfl, rfl, rfl, rfl, rfl, rfl, rfl, rfl, rfl⟩
  setting := ⟨rfl, rfl, rfl, rfl, rfl, rfl, rfl, rfl⟩

/-! ### Alignment -/

theorem aligned4_eq (va : Word) : aligned4 va = decide (va.toNat % 4 = 0) := by
  have h : (va.extractLsb' 0 2).toNat = va.toNat % 4 := by simp
  unfold aligned4
  rw [Bool.eq_iff_iff, beq_iff_eq, decide_eq_true_iff, ← h]
  exact ⟨fun e => by rw [e]; rfl, fun e => BitVec.eq_of_toNat_eq e⟩

theorem aligned2_eq (va : Word) : aligned2 va = decide (va.toNat % 2 = 0) := by
  unfold aligned2
  rw [Bool.eq_iff_iff, decide_eq_true_iff, BitVec.getLsbD, Nat.testBit_zero]
  have := Nat.mod_two_eq_zero_or_one va.toNat
  rcases this with h | h <;> simp [h]

theorem byteInWord_eq (va : Word) : byteInWord va = va.toNat % 4 := by simp [byteInWord]

theorem alignedWord_mod (va : Word) : (alignedWord va).toNat % 4 = 0 := by
  rw [show 4 = 2 ^ 2 from rfl, ← BitVec.toNat_setWidth, alignedWord, BitVec.setWidth_append]
  simp

end Sys2Proof.Machine
end

