-- ==== Sys2Proof/Laws/Exec.lean ====
section
/-! SUPPORT. What an instruction that gives a next state can have done, said once: every invariant over all instructions
follows from `exec_cases`. -/

namespace Sys2Proof.Machine

/-- The effects an instruction can have, each with the instructions that have it. -/
inductive Effect (i : Instr) (s : State) : State → Prop where
  /-- one general register is written -/
  | reg (r : RegNum) (v : Word) (hb : isBranchOrJump i = false) (he : i ≠ .eret) : Effect i s (s.setReg r v).advance
  /-- HI and LO are written -/
  | hiLo (rs rt : RegNum) (v : Config.HiLo) (hi : i = .mult rs rt ∨ i = .multu rs rt ∨ i = .div rs rt ∨ i = .divu rs rt) :
      Effect i s (s.setHiLo v).advance
  | mthi (rs : RegNum) (hi : i = .mthi rs) : Effect i s (s.setHi (s.reg rs)).advance
  | mtlo (rs : RegNum) (hi : i = .mtlo rs) : Effect i s (s.setLo (s.reg rs)).advance
  /-- bytes of one aligned word are read, from memory or a device, and one general register is written -/
  | load (va : Word) (n : Nat) (r : RegNum) (v : Word) (hb : isBranchOrJump i = false) (he : i ≠ .eret)
      (hl : isLoad i = true) : Effect i s ((s.noteRead va n).setReg r v).advance
  /-- bytes of one aligned word are stored, to memory or a device -/
  | store (va : Word) (n : Nat) (v : Word) (hb : isBranchOrJump i = false) (he : i ≠ .eret) (hl : isStore i = true)
      (hn : va.toNat % 4 + n ≤ 4) : Effect i s (s.memWrite va n v).advance
  /-- control is transferred -/
  | branch (taken : Bool) (target : Word) (hb : isBranchOrJump i = true) (hd : s.ds = false) :
      Effect i s (s.branchTo taken target)
  | link (r : RegNum) (taken : Bool) (target : Word) (hb : isBranchOrJump i = true) (hd : s.ds = false) :
      Effect i s ((s.setReg r (linkAddr s.pc)).branchTo taken target)
  /-- an exception without an address is taken -/
  | sys (code : BitVec 20) (hi : i = .syscall code) : Effect i s (s.enterException .sys none)
  | bp (code : BitVec 20) (hi : i = .brk code) : Effect i s (s.enterException .bp none)
  | ov (a b c : RegNum) (imm : BitVec 16) (hi : i = .add a b c ∨ i = .addi a b imm ∨ i = .sub a b c) :
      Effect i s (s.enterException .ov none)
  /-- an address error is taken -/
  | adEL (va : Word) (hb : isBranchOrJump i = false) (he : i ≠ .eret) : Effect i s (s.enterException .adEL (some va))
  | adES (va : Word) (hb : isBranchOrJump i = false) (he : i ≠ .eret) : Effect i s (s.enterException .adES (some va))
  /-- the exception level is left -/
  | eret (hi : i = .eret) (hd : s.ds = false) : Effect i s s.exceptionReturn
  /-- a CP0 register is written -/
  | mtc0 (rt : RegNum) (rd : BitVec 5) (sel : BitVec 3) (hi : i = .mtc0 rt rd sel) :
      Effect i s (s.writeCp0 rd sel (s.reg rt)).advance

variable {i : Instr} {s t : State}

theorem Effect.of_doneReg {r : RegNum} {v : Word} (h : s.doneReg r v = .next t) (hb : isBranchOrJump i = false)
    (he : i ≠ .eret) : Effect i s t := by
  rw [State.doneReg_next] at h; subst h; exact .reg r v hb he

theorem Effect.of_doneUnlessOverflow {r : RegNum} {x : BitVec 33} (h : s.doneUnlessOverflow r x = .next t)
    (a b c : RegNum) (imm : BitVec 16) (hi : i = .add a b c ∨ i = .addi a b imm ∨ i = .sub a b c) : Effect i s t := by
  rcases (s.doneUnlessOverflow_next t r x).mp h with ⟨-, rfl⟩ | ⟨-, rfl⟩
  · exact .ov a b c imm hi
  · rcases hi with rfl | rfl | rfl <;> exact .reg r _ rfl nofun

theorem Effect.of_transfer {c : Bool} {a : Word} (h : s.transfer c a = .next t) (hb : isBranchOrJump i = true) :
    Effect i s t := by
  obtain ⟨hd, rfl⟩ := (s.transfer_next t c a).mp h; exact .branch c a hb hd

theorem Effect.of_transferLink {r : RegNum} {c : Bool} {a : Word} (h : s.transferLink r c a = .next t)
    (hb : isBranchOrJump i = true) : Effect i s t := by
  obtain ⟨hd, rfl⟩ := (s.transferLink_next t r c a).mp h; exact .link r c a hb hd

theorem Effect.of_load {r : RegNum} {va : Word} {n : Nat} {f : Word → Word} (h : s.load r va n f = .next t)
    (hb : isBranchOrJump i = false) (he : i ≠ .eret) (hl : isLoad i = true) : Effect i s t := by
  obtain ⟨-, rfl⟩ := (s.load_next t r va n f).mp h; exact .load va n r _ hb he hl

theorem Effect.of_loadAligned {ok : Bool} {r : RegNum} {va : Word} {n : Nat} {f : Word → Word}
    (h : s.loadAligned ok r va n f = .next t) (hb : isBranchOrJump i = false) (he : i ≠ .eret) (hl : isLoad i = true) :
    Effect i s t := by
  rcases (s.loadAligned_next t ok r va n f).mp h with ⟨-, rfl⟩ | ⟨-, -, rfl⟩
  · exact .adEL va hb he
  · exact .load va n r _ hb he hl

theorem Effect.of_store {va : Word} {n : Nat} {v : Word} (h : s.store va n v = .next t)
    (hb : isBranchOrJump i = false) (he : i ≠ .eret) (hl : isStore i = true) (hn : va.toNat % 4 + n ≤ 4) :
    Effect i s t := by
  obtain ⟨-, rfl⟩ := (s.store_next t va n v).mp h; exact .store va n v hb he hl hn

theorem Effect.of_storeAligned {ok : Bool} {va : Word} {n : Nat} {v : Word} (h : s.storeAligned ok va n v = .next t)
    (hb : isBranchOrJump i = false) (he : i ≠ .eret) (hl : isStore i = true) (hn : ok = true → va.toNat % 4 + n ≤ 4) :
    Effect i s t := by
  rcases (s.storeAligned_next t ok va n v).mp h with ⟨-, rfl⟩ | ⟨hk, -, rfl⟩
  · exact .adES va hb he
  · exact .store va n v hb he hl (hn hk)

/-- Every next state of every instruction is one of these effects. -/
theorem exec_cases (h : exec i s = .next t) : Effect i s t := by
  cases i with
  | add rd rs rt => exact .of_doneUnlessOverflow h rd rs rt 0 (.inl rfl)
  | addi rt rs imm => exact .of_doneUnlessOverflow h rt rs 0 imm (.inr (.inl rfl))
  | sub rd rs rt => exact .of_doneUnlessOverflow h rd rs rt 0 (.inr (.inr rfl))
  | addu _ _ _ | addiu _ _ _ | subu _ _ _ | slt _ _ _ | slti _ _ _ | sltu _ _ _ | sltiu _ _ _ | and _ _ _ | andi _ _ _
  | lui _ _ | nor _ _ _ | or _ _ _ | ori _ _ _ | xor _ _ _ | xori _ _ _ | sllv _ _ _ | sll _ _ _ | srav _ _ _ | sra _ _ _
  | srlv _ _ _ | srl _ _ _ | mfhi _ | mflo _ | mfc0 _ _ _ => exact .of_doneReg h rfl nofun
  | mult rs rt => cases (s.setHiLo _).done_next t |>.mp h; exact .hiLo rs rt _ (.inl rfl)
  | multu rs rt => cases (s.setHiLo _).done_next t |>.mp h; exact .hiLo rs rt _ (.inr (.inl rfl))
  | div rs rt => cases (s.setHiLo _).done_next t |>.mp h; exact .hiLo rs rt _ (.inr (.inr (.inl rfl)))
  | divu rs rt => cases (s.setHiLo _).done_next t |>.mp h; exact .hiLo rs rt _ (.inr (.inr (.inr rfl)))
  | mthi rs => cases (s.setHi _).done_next t |>.mp h; exact .mthi rs rfl
  | mtlo rs => cases (s.setLo _).done_next t |>.mp h; exact .mtlo rs rfl
  | beq _ _ _ | bne _ _ _ | bgez _ _ | bgtz _ _ | blez _ _ | bltz _ _ | j _ | jr _ => exact .of_transfer h rfl
  | bgezal _ _ | bltzal _ _ | jal _ | jalr _ _ => exact .of_transferLink h rfl
  | brk code => cases (s.raise_next t .bp).mp h; exact .bp code rfl
  | syscall code => cases (s.raise_next t .sys).mp h; exact .sys code rfl
  | lb _ _ _ | lbu _ _ _ | lwl _ _ _ | lwr _ _ _ =>
    simp only [exec, execLb, execLbu, execLwl, execLwr] at h
    exact .of_load h rfl nofun rfl
  | lh _ _ _ | lhu _ _ _ | lw _ _ _ => exact .of_loadAligned h rfl nofun rfl
  | sb _ _ _ => exact .of_store h rfl nofun rfl (by omega)
  | swl _ _ _ => exact .of_store h rfl nofun rfl (by rw [alignedWord_mod, byteInWord_eq]; omega)
  | swr _ _ _ => exact .of_store h rfl nofun rfl (by rw [byteInWord_eq]; omega)
  | sh _ _ _ => exact .of_storeAligned h rfl nofun rfl (fun ha => by rw [aligned2_eq, decide_eq_true_iff] at ha; omega)
  | sw _ _ _ => exact .of_storeAligned h rfl nofun rfl (fun ha => by rw [aligned4_eq, decide_eq_true_iff] at ha; omega)
  | eret =>
    cases hd : s.ds with
    | true => simp [exec, execEret, hd] at h
    | false =>
      simp only [exec, execEret, hd, Bool.false_eq_true, if_false, Host.Outcome.next.injEq] at h
      subst h
      exact .eret rfl hd
  | mtc0 rt rd sel => cases (s.writeCp0 _ _ _).done_next t |>.mp h; exact .mtc0 rt rd sel rfl

end Sys2Proof.Machine
end

