-- ==== Sys2Proof/Laws/PerInstr.lean ====
section
/-! SUPPORT. What is said of every instruction as syntax: its encoded word has the fixed bits of its row of
spec/opcode_table.json. One lemma per constructor. -/

namespace Sys2Proof.Laws

/-- The mask and the match of each row of spec/opcode_table.json. -/
def tableRow : Instr → Word × Word
  | .add _ _ _ => (0xFC0007FF, 0x00000020)
  | .addi _ _ _ => (0xFC000000, 0x20000000)
  | .addu _ _ _ => (0xFC0007FF, 0x00000021)
  | .addiu _ _ _ => (0xFC000000, 0x24000000)
  | .sub _ _ _ => (0xFC0007FF, 0x00000022)
  | .subu _ _ _ => (0xFC0007FF, 0x00000023)
  | .slt _ _ _ => (0xFC0007FF, 0x0000002A)
  | .slti _ _ _ => (0xFC000000, 0x28000000)
  | .sltu _ _ _ => (0xFC0007FF, 0x0000002B)
  | .sltiu _ _ _ => (0xFC000000, 0x2C000000)
  | .div _ _ => (0xFC00FFFF, 0x0000001A)
  | .divu _ _ => (0xFC00FFFF, 0x0000001B)
  | .mult _ _ => (0xFC00FFFF, 0x00000018)
  | .multu _ _ => (0xFC00FFFF, 0x00000019)
  | .and _ _ _ => (0xFC0007FF, 0x00000024)
  | .andi _ _ _ => (0xFC000000, 0x30000000)
  | .lui _ _ => (0xFFE00000, 0x3C000000)
  | .nor _ _ _ => (0xFC0007FF, 0x00000027)
  | .or _ _ _ => (0xFC0007FF, 0x00000025)
  | .ori _ _ _ => (0xFC000000, 0x34000000)
  | .xor _ _ _ => (0xFC0007FF, 0x00000026)
  | .xori _ _ _ => (0xFC000000, 0x38000000)
  | .sllv _ _ _ => (0xFC0007FF, 0x00000004)
  | .sll _ _ _ => (0xFFE0003F, 0x00000000)
  | .srav _ _ _ => (0xFC0007FF, 0x00000007)
  | .sra _ _ _ => (0xFFE0003F, 0x00000003)
  | .srlv _ _ _ => (0xFC0007FF, 0x00000006)
  | .srl _ _ _ => (0xFFE0003F, 0x00000002)
  | .beq _ _ _ => (0xFC000000, 0x10000000)
  | .bne _ _ _ => (0xFC000000, 0x14000000)
  | .bgez _ _ => (0xFC1F0000, 0x04010000)
  | .bgtz _ _ => (0xFC1F0000, 0x1C000000)
  | .blez _ _ => (0xFC1F0000, 0x18000000)
  | .bltz _ _ => (0xFC1F0000, 0x04000000)
  | .bgezal _ _ => (0xFC1F0000, 0x04110000)
  | .bltzal _ _ => (0xFC1F0000, 0x04100000)
  | .j _ => (0xFC000000, 0x08000000)
  | .jal _ => (0xFC000000, 0x0C000000)
  | .jr _ => (0xFC1FFFFF, 0x00000008)
  | .jalr _ _ => (0xFC1F07FF, 0x00000009)
  | .mfhi _ => (0xFFFF07FF, 0x00000010)
  | .mflo _ => (0xFFFF07FF, 0x00000012)
  | .mthi _ => (0xFC1FFFFF, 0x00000011)
  | .mtlo _ => (0xFC1FFFFF, 0x00000013)
  | .brk _ => (0xFC00003F, 0x0000000D)
  | .syscall _ => (0xFC00003F, 0x0000000C)
  | .lb _ _ _ => (0xFC000000, 0x80000000)
  | .lbu _ _ _ => (0xFC000000, 0x90000000)
  | .lh _ _ _ => (0xFC000000, 0x84000000)
  | .lhu _ _ _ => (0xFC000000, 0x94000000)
  | .lw _ _ _ => (0xFC000000, 0x8C000000)
  | .lwl _ _ _ => (0xFC000000, 0x88000000)
  | .lwr _ _ _ => (0xFC000000, 0x98000000)
  | .sb _ _ _ => (0xFC000000, 0xA0000000)
  | .sh _ _ _ => (0xFC000000, 0xA4000000)
  | .sw _ _ _ => (0xFC000000, 0xAC000000)
  | .swl _ _ _ => (0xFC000000, 0xA8000000)
  | .swr _ _ _ => (0xFC000000, 0xB8000000)
  | .eret => (0xFFFFFFFF, 0x42000018)
  | .mfc0 _ _ _ => (0xFFE007F8, 0x40000000)
  | .mtc0 _ _ _ => (0xFFE007F8, 0x40800000)

/-- The fixed bits of the encoded word are those of the instruction's row. -/
def TableRow.Statement (i : Instr) : Prop := encode i &&& (tableRow i).1 = (tableRow i).2

/-- An R-Type word masked field by field. -/
theorem rType_masked {o o' p : BitVec 6} {a a' a'' b b' b'' c c' c'' d d' d'' : BitVec 5} {f f' g : BitVec 6}
    {m r : Word} (hm : m = rType o' a' b' c' d' f') (hr : r = rType p a'' b'' c'' d'' g)
    (ho : o &&& o' = p) (ha : a &&& a' = a'') (hb : b &&& b' = b'') (hc : c &&& c' = c'') (hd : d &&& d' = d'')
    (hf : f &&& f' = g) : rType o a b c d f &&& m = r := by
  rw [hm, hr, rType_and, ho, ha, hb, hc, hd, hf]

/-- An I-Type word masked field by field. -/
theorem iType_masked {o o' p : BitVec 6} {a a' a'' b b' b'' : BitVec 5} {c c' c'' : BitVec 16} {m r : Word}
    (hm : m = iType o' a' b' c') (hr : r = iType p a'' b'' c'')
    (ho : o &&& o' = p) (ha : a &&& a' = a'') (hb : b &&& b' = b'') (hc : c &&& c' = c'') :
    iType o a b c &&& m = r := by
  rw [hm, hr, iType_and, ho, ha, hb, hc]

/-- A J-Type word masked field by field. -/
theorem jType_masked (o : BitVec 6) (index : BitVec 26) : jType o index &&& jType 0b111111 0#26 = jType o 0#26 := by
  unfold jType
  rw [BitVec.and_append, BitVec.and_zero]
  congr 1
  exact BitVec.and_allOnes

/-- A BREAK or SYSCALL word masked field by field. -/
theorem codeType_masked (code : BitVec 20) (f : BitVec 6) :
    codeType code f &&& (0b111111#6 ++ 0#20 ++ 0b111111#6 : BitVec (6 + 20 + 6)) = codeType 0 f := by
  unfold codeType
  rw [BitVec.and_append, BitVec.and_append, BitVec.and_zero]
  congr 1
  exact BitVec.and_allOnes

/-- An MFC0 or MTC0 word masked field by field. -/
theorem cp0Type_masked (sub : BitVec 5) (rt : RegNum) (rd : BitVec 5) (sel : BitVec 3) :
    cp0Type sub rt rd sel &&& (0b111111#6 ++ 0b11111#5 ++ 0#5 ++ 0#5 ++ 0b11111111#8 ++ 0#3 : BitVec (6 + 5 + 5 + 5 + 8 + 3))
      = cp0Type sub 0 0 0 := by
  unfold cp0Type
  rw [BitVec.and_append, BitVec.and_append, BitVec.and_append, BitVec.and_append, BitVec.and_append]
  simp only [BitVec.and_zero]
  congr 5
  exact BitVec.and_allOnes

theorem TableRow.add (rd rs rt : RegNum) : TableRow.Statement (.add rd rs rt) :=
  rType_masked (o' := 63) (a' := 0) (b' := 0) (c' := 0) (d' := 31) (f' := 63)
    rfl rfl rfl BitVec.and_zero BitVec.and_zero BitVec.and_zero rfl rfl

theorem TableRow.addi (rt rs : RegNum) (imm : BitVec 16) : TableRow.Statement (.addi rt rs imm) :=
  iType_masked (o' := 63) (a' := 0) (b' := 0) (c' := 0)
    rfl rfl rfl BitVec.and_zero BitVec.and_zero BitVec.and_zero

theorem TableRow.addu (rd rs rt : RegNum) : TableRow.Statement (.addu rd rs rt) :=
  rType_masked (o' := 63) (a' := 0) (b' := 0) (c' := 0) (d' := 31) (f' := 63)
    rfl rfl rfl BitVec.and_zero BitVec.and_zero BitVec.and_zero rfl rfl

theorem TableRow.addiu (rt rs : RegNum) (imm : BitVec 16) : TableRow.Statement (.addiu rt rs imm) :=
  iType_masked (o' := 63) (a' := 0) (b' := 0) (c' := 0)
    rfl rfl rfl BitVec.and_zero BitVec.and_zero BitVec.and_zero

theorem TableRow.sub (rd rs rt : RegNum) : TableRow.Statement (.sub rd rs rt) :=
  rType_masked (o' := 63) (a' := 0) (b' := 0) (c' := 0) (d' := 31) (f' := 63)
    rfl rfl rfl BitVec.and_zero BitVec.and_zero BitVec.and_zero rfl rfl

theorem TableRow.subu (rd rs rt : RegNum) : TableRow.Statement (.subu rd rs rt) :=
  rType_masked (o' := 63) (a' := 0) (b' := 0) (c' := 0) (d' := 31) (f' := 63)
    rfl rfl rfl BitVec.and_zero BitVec.and_zero BitVec.and_zero rfl rfl

theorem TableRow.slt (rd rs rt : RegNum) : TableRow.Statement (.slt rd rs rt) :=
  rType_masked (o' := 63) (a' := 0) (b' := 0) (c' := 0) (d' := 31) (f' := 63)
    rfl rfl rfl BitVec.and_zero BitVec.and_zero BitVec.and_zero rfl rfl

theorem TableRow.slti (rt rs : RegNum) (imm : BitVec 16) : TableRow.Statement (.slti rt rs imm) :=
  iType_masked (o' := 63) (a' := 0) (b' := 0) (c' := 0)
    rfl rfl rfl BitVec.and_zero BitVec.and_zero BitVec.and_zero

theorem TableRow.sltu (rd rs rt : RegNum) : TableRow.Statement (.sltu rd rs rt) :=
  rType_masked (o' := 63) (a' := 0) (b' := 0) (c' := 0) (d' := 31) (f' := 63)
    rfl rfl rfl BitVec.and_zero BitVec.and_zero BitVec.and_zero rfl rfl

theorem TableRow.sltiu (rt rs : RegNum) (imm : BitVec 16) : TableRow.Statement (.sltiu rt rs imm) :=
  iType_masked (o' := 63) (a' := 0) (b' := 0) (c' := 0)
    rfl rfl rfl BitVec.and_zero BitVec.and_zero BitVec.and_zero

theorem TableRow.div (rs rt : RegNum) : TableRow.Statement (.div rs rt) :=
  rType_masked (o' := 63) (a' := 0) (b' := 0) (c' := 31) (d' := 31) (f' := 63)
    rfl rfl rfl BitVec.and_zero BitVec.and_zero rfl rfl rfl

theorem TableRow.divu (rs rt : RegNum) : TableRow.Statement (.divu rs rt) :=
  rType_masked (o' := 63) (a' := 0) (b' := 0) (c' := 31) (d' := 31) (f' := 63)
    rfl rfl rfl BitVec.and_zero BitVec.and_zero rfl rfl rfl

theorem TableRow.mult (rs rt : RegNum) : TableRow.Statement (.mult rs rt) :=
  rType_masked (o' := 63) (a' := 0) (b' := 0) (c' := 31) (d' := 31) (f' := 63)
    rfl rfl rfl BitVec.and_zero BitVec.and_zero rfl rfl rfl

theorem TableRow.multu (rs rt : RegNum) : TableRow.Statement (.multu rs rt) :=
  rType_masked (o' := 63) (a' := 0) (b' := 0) (c' := 31) (d' := 31) (f' := 63)
    rfl rfl rfl BitVec.and_zero BitVec.and_zero rfl rfl rfl

theorem TableRow.and (rd rs rt : RegNum) : TableRow.Statement (.and rd rs rt) :=
  rType_masked (o' := 63) (a' := 0) (b' := 0) (c' := 0) (d' := 31) (f' := 63)
    rfl rfl rfl BitVec.and_zero BitVec.and_zero BitVec.and_zero rfl rfl

theorem TableRow.andi (rt rs : RegNum) (imm : BitVec 16) : TableRow.Statement (.andi rt rs imm) :=
  iType_masked (o' := 63) (a' := 0) (b' := 0) (c' := 0)
    rfl rfl rfl BitVec.and_zero BitVec.and_zero BitVec.and_zero

theorem TableRow.lui (rt : RegNum) (imm : BitVec 16) : TableRow.Statement (.lui rt imm) :=
  iType_masked (o' := 63) (a' := 31) (b' := 0) (c' := 0)
    rfl rfl rfl rfl BitVec.and_zero BitVec.and_zero

theorem TableRow.nor (rd rs rt : RegNum) : TableRow.Statement (.nor rd rs rt) :=
  rType_masked (o' := 63) (a' := 0) (b' := 0) (c' := 0) (d' := 31) (f' := 63)
    rfl rfl rfl BitVec.and_zero BitVec.and_zero BitVec.and_zero rfl rfl

theorem TableRow.or (rd rs rt : RegNum) : TableRow.Statement (.or rd rs rt) :=
  rType_masked (o' := 63) (a' := 0) (b' := 0) (c' := 0) (d' := 31) (f' := 63)
    rfl rfl rfl BitVec.and_zero BitVec.and_zero BitVec.and_zero rfl rfl

theorem TableRow.ori (rt rs : RegNum) (imm : BitVec 16) : TableRow.Statement (.ori rt rs imm) :=
  iType_masked (o' := 63) (a' := 0) (b' := 0) (c' := 0)
    rfl rfl rfl BitVec.and_zero BitVec.and_zero BitVec.and_zero

theorem TableRow.xor (rd rs rt : RegNum) : TableRow.Statement (.xor rd rs rt) :=
  rType_masked (o' := 63) (a' := 0) (b' := 0) (c' := 0) (d' := 31) (f' := 63)
    rfl rfl rfl BitVec.and_zero BitVec.and_zero BitVec.and_zero rfl rfl

theorem TableRow.xori (rt rs : RegNum) (imm : BitVec 16) : TableRow.Statement (.xori rt rs imm) :=
  iType_masked (o' := 63) (a' := 0) (b' := 0) (c' := 0)
    rfl rfl rfl BitVec.and_zero BitVec.and_zero BitVec.and_zero

theorem TableRow.sllv (rd rt rs : RegNum) : TableRow.Statement (.sllv rd rt rs) :=
  rType_masked (o' := 63) (a' := 0) (b' := 0) (c' := 0) (d' := 31) (f' := 63)
    rfl rfl rfl BitVec.and_zero BitVec.and_zero BitVec.and_zero rfl rfl

theorem TableRow.sll (rd rt : RegNum) (sa : BitVec 5) : TableRow.Statement (.sll rd rt sa) :=
  rType_masked (o' := 63) (a' := 31) (b' := 0) (c' := 0) (d' := 0) (f' := 63)
    rfl rfl rfl rfl BitVec.and_zero BitVec.and_zero BitVec.and_zero rfl

theorem TableRow.srav (rd rt rs : RegNum) : TableRow.Statement (.srav rd rt rs) :=
  rType_masked (o' := 63) (a' := 0) (b' := 0) (c' := 0) (d' := 31) (f' := 63)
    rfl rfl rfl BitVec.and_zero BitVec.and_zero BitVec.and_zero rfl rfl

theorem TableRow.sra (rd rt : RegNum) (sa : BitVec 5) : TableRow.Statement (.sra rd rt sa) :=
  rType_masked (o' := 63) (a' := 31) (b' := 0) (c' := 0) (d' := 0) (f' := 63)
    rfl rfl rfl rfl BitVec.and_zero BitVec.and_zero BitVec.and_zero rfl

theorem TableRow.srlv (rd rt rs : RegNum) : TableRow.Statement (.srlv rd rt rs) :=
  rType_masked (o' := 63) (a' := 0) (b' := 0) (c' := 0) (d' := 31) (f' := 63)
    rfl rfl rfl BitVec.and_zero BitVec.and_zero BitVec.and_zero rfl rfl

theorem TableRow.srl (rd rt : RegNum) (sa : BitVec 5) : TableRow.Statement (.srl rd rt sa) :=
  rType_masked (o' := 63) (a' := 31) (b' := 0) (c' := 0) (d' := 0) (f' := 63)
    rfl rfl rfl rfl BitVec.and_zero BitVec.and_zero BitVec.and_zero rfl

theorem TableRow.beq (rs rt : RegNum) (offset : BitVec 16) : TableRow.Statement (.beq rs rt offset) :=
  iType_masked (o' := 63) (a' := 0) (b' := 0) (c' := 0)
    rfl rfl rfl BitVec.and_zero BitVec.and_zero BitVec.and_zero

theorem TableRow.bne (rs rt : RegNum) (offset : BitVec 16) : TableRow.Statement (.bne rs rt offset) :=
  iType_masked (o' := 63) (a' := 0) (b' := 0) (c' := 0)
    rfl rfl rfl BitVec.and_zero BitVec.and_zero BitVec.and_zero

theorem TableRow.bgez (rs : RegNum) (offset : BitVec 16) : TableRow.Statement (.bgez rs offset) :=
  iType_masked (o' := 63) (a' := 0) (b' := 31) (c' := 0)
    rfl rfl rfl BitVec.and_zero rfl BitVec.and_zero

theorem TableRow.bgtz (rs : RegNum) (offset : BitVec 16) : TableRow.Statement (.bgtz rs offset) :=
  iType_masked (o' := 63) (a' := 0) (b' := 31) (c' := 0)
    rfl rfl rfl BitVec.and_zero rfl BitVec.and_zero

theorem TableRow.blez (rs : RegNum) (offset : BitVec 16) : TableRow.Statement (.blez rs offset) :=
  iType_masked (o' := 63) (a' := 0) (b' := 31) (c' := 0)
    rfl rfl rfl BitVec.and_zero rfl BitVec.and_zero

theorem TableRow.bltz (rs : RegNum) (offset : BitVec 16) : TableRow.Statement (.bltz rs offset) :=
  iType_masked (o' := 63) (a' := 0) (b' := 31) (c' := 0)
    rfl rfl rfl BitVec.and_zero rfl BitVec.and_zero

theorem TableRow.bgezal (rs : RegNum) (offset : BitVec 16) : TableRow.Statement (.bgezal rs offset) :=
  iType_masked (o' := 63) (a' := 0) (b' := 31) (c' := 0)
    rfl rfl rfl BitVec.and_zero rfl BitVec.and_zero

theorem TableRow.bltzal (rs : RegNum) (offset : BitVec 16) : TableRow.Statement (.bltzal rs offset) :=
  iType_masked (o' := 63) (a' := 0) (b' := 31) (c' := 0)
    rfl rfl rfl BitVec.and_zero rfl BitVec.and_zero

theorem TableRow.j (index : BitVec 26) : TableRow.Statement (.j index) :=
  jType_masked _ index

theorem TableRow.jal (index : BitVec 26) : TableRow.Statement (.jal index) :=
  jType_masked _ index

theorem TableRow.jr (rs : RegNum) : TableRow.Statement (.jr rs) :=
  rType_masked (o' := 63) (a' := 0) (b' := 31) (c' := 31) (d' := 31) (f' := 63)
    rfl rfl rfl BitVec.and_zero rfl rfl rfl rfl

theorem TableRow.jalr (rd rs : RegNum) : TableRow.Statement (.jalr rd rs) :=
  rType_masked (o' := 63) (a' := 0) (b' := 31) (c' := 0) (d' := 31) (f' := 63)
    rfl rfl rfl BitVec.and_zero rfl BitVec.and_zero rfl rfl

theorem TableRow.mfhi (rd : RegNum) : TableRow.Statement (.mfhi rd) :=
  rType_masked (o' := 63) (a' := 31) (b' := 31) (c' := 0) (d' := 31) (f' := 63)
    rfl rfl rfl rfl rfl BitVec.and_zero rfl rfl

theorem TableRow.mflo (rd : RegNum) : TableRow.Statement (.mflo rd) :=
  rType_masked (o' := 63) (a' := 31) (b' := 31) (c' := 0) (d' := 31) (f' := 63)
    rfl rfl rfl rfl rfl BitVec.and_zero rfl rfl

theorem TableRow.mthi (rs : RegNum) : TableRow.Statement (.mthi rs) :=
  rType_masked (o' := 63) (a' := 0) (b' := 31) (c' := 31) (d' := 31) (f' := 63)
    rfl rfl rfl BitVec.and_zero rfl rfl rfl rfl

theorem TableRow.mtlo (rs : RegNum) : TableRow.Statement (.mtlo rs) :=
  rType_masked (o' := 63) (a' := 0) (b' := 31) (c' := 31) (d' := 31) (f' := 63)
    rfl rfl rfl BitVec.and_zero rfl rfl rfl rfl

theorem TableRow.brk (code : BitVec 20) : TableRow.Statement (.brk code) :=
  codeType_masked code _

theorem TableRow.syscall (code : BitVec 20) : TableRow.Statement (.syscall code) :=
  codeType_masked code _

theorem TableRow.lb (rt base : RegNum) (offset : BitVec 16) : TableRow.Statement (.lb rt base offset) :=
  iType_masked (o' := 63) (a' := 0) (b' := 0) (c' := 0)
    rfl rfl rfl BitVec.and_zero BitVec.and_zero BitVec.and_zero

theorem TableRow.lbu (rt base : RegNum) (offset : BitVec 16) : TableRow.Statement (.lbu rt base offset) :=
  iType_masked (o' := 63) (a' := 0) (b' := 0) (c' := 0)
    rfl rfl rfl BitVec.and_zero BitVec.and_zero BitVec.and_zero

theorem TableRow.lh (rt base : RegNum) (offset : BitVec 16) : TableRow.Statement (.lh rt base offset) :=
  iType_masked (o' := 63) (a' := 0) (b' := 0) (c' := 0)
    rfl rfl rfl BitVec.and_zero BitVec.and_zero BitVec.and_zero

theorem TableRow.lhu (rt base : RegNum) (offset : BitVec 16) : TableRow.Statement (.lhu rt base offset) :=
  iType_masked (o' := 63) (a' := 0) (b' := 0) (c' := 0)
    rfl rfl rfl BitVec.and_zero BitVec.and_zero BitVec.and_zero

theorem TableRow.lw (rt base : RegNum) (offset : BitVec 16) : TableRow.Statement (.lw rt base offset) :=
  iType_masked (o' := 63) (a' := 0) (b' := 0) (c' := 0)
    rfl rfl rfl BitVec.and_zero BitVec.and_zero BitVec.and_zero

theorem TableRow.lwl (rt base : RegNum) (offset : BitVec 16) : TableRow.Statement (.lwl rt base offset) :=
  iType_masked (o' := 63) (a' := 0) (b' := 0) (c' := 0)
    rfl rfl rfl BitVec.and_zero BitVec.and_zero BitVec.and_zero

theorem TableRow.lwr (rt base : RegNum) (offset : BitVec 16) : TableRow.Statement (.lwr rt base offset) :=
  iType_masked (o' := 63) (a' := 0) (b' := 0) (c' := 0)
    rfl rfl rfl BitVec.and_zero BitVec.and_zero BitVec.and_zero

theorem TableRow.sb (rt base : RegNum) (offset : BitVec 16) : TableRow.Statement (.sb rt base offset) :=
  iType_masked (o' := 63) (a' := 0) (b' := 0) (c' := 0)
    rfl rfl rfl BitVec.and_zero BitVec.and_zero BitVec.and_zero

theorem TableRow.sh (rt base : RegNum) (offset : BitVec 16) : TableRow.Statement (.sh rt base offset) :=
  iType_masked (o' := 63) (a' := 0) (b' := 0) (c' := 0)
    rfl rfl rfl BitVec.and_zero BitVec.and_zero BitVec.and_zero

theorem TableRow.sw (rt base : RegNum) (offset : BitVec 16) : TableRow.Statement (.sw rt base offset) :=
  iType_masked (o' := 63) (a' := 0) (b' := 0) (c' := 0)
    rfl rfl rfl BitVec.and_zero BitVec.and_zero BitVec.and_zero

theorem TableRow.swl (rt base : RegNum) (offset : BitVec 16) : TableRow.Statement (.swl rt base offset) :=
  iType_masked (o' := 63) (a' := 0) (b' := 0) (c' := 0)
    rfl rfl rfl BitVec.and_zero BitVec.and_zero BitVec.and_zero

theorem TableRow.swr (rt base : RegNum) (offset : BitVec 16) : TableRow.Statement (.swr rt base offset) :=
  iType_masked (o' := 63) (a' := 0) (b' := 0) (c' := 0)
    rfl rfl rfl BitVec.and_zero BitVec.and_zero BitVec.and_zero

theorem TableRow.eret : TableRow.Statement (.eret) :=
  rfl

theorem TableRow.mfc0 (rt rd : RegNum) (sel : BitVec 3) : TableRow.Statement (.mfc0 rt rd sel) :=
  cp0Type_masked _ rt rd sel

theorem TableRow.mtc0 (rt rd : RegNum) (sel : BitVec 3) : TableRow.Statement (.mtc0 rt rd sel) :=
  cp0Type_masked _ rt rd sel

end Sys2Proof.Laws
end

