-- ==== Sys2Proof/Tests/Slice0.lean ====
section
/-! SUPPORT. The model's own tests: the smoke test of WellFormed, the decoding of words written out in 95_test_vectors.md
and in the rules' examples, one step of each instruction (each expected value is that of the vector or example named beside
it), and a witness for the hypotheses of each statement. -/

namespace Sys2Proof.Tests

open Sys2Proof.Machine

/-! ### Helpers -/

/-- No pin high, no tick. -/
def quiet : Config.Input :=
  { pins := 0, ticks := 0, tiRace := false, holdOff := false, deviceData := 0xA1B2C3D4, deviceFetch := 0x00221821 }

/-- The start state of 95_test_vectors.md, with r1 and r2 given. -/
def start (a b : Word) : State :=
  ({ State.reset with pc := 0x80000100, npc := 0x80000104, inputs := [quiet] }.setReg 1 a).setReg 2 b

/-- The start state of the load and store vectors (B7), with r1 and r2 given. -/
def startMem (a b : Word) : State :=
  ((start a b).memWrite 0x80001000 4 0x11223344).memWrite 0x80001004 4 0x8899AAFF

/-- The start state of the privileged vectors (B8). -/
def startCp0 : State :=
  { start 0 0xFFFFFFFF with
    im := 0xFF, exl := true, ie := true, bd := true, excCode := 9, epc := 0x80000200, badVAddr := 0x80001001
    count := 0x100, compare := 0x1000 }

/-- A state with one window that is not ordinary memory, at the physical word 0x1000. -/
def startWindow (k : Config.WindowKind) : State :=
  { startMem 0x80001000 0xAABBCCDD with
    deviceData := 0xA1B2C3D4
    cfg := { defaultPlatform with windows := [{ first := 0x1000, last := 0x1003, kind := k }] } }

/-- A word of the program at pc. -/
def place (s : State) (w : Word) : State := s.placeWord w

/-- What an outcome leaves of a next state. -/
def seen {α : Type} (r : Res) (f : State → α) : Option α :=
  match r with
  | .next t => some (f t)
  | .fault _ => none
  | .refused _ => none

/-- An outcome that shows something is a next state. -/
theorem next_of_seen {r : Res} (h : seen r (fun _ => ()) = some ()) : ∃ t, r = .next t := by
  cases r with
  | next t => exact ⟨t, rfl⟩
  | fault _ => cases h
  | refused _ => cases h

/-! ### WellFormed: a term each check refuses -/

theorem test_wellFormed_refuses_mfc0_of_no_register : (Instr.mfc0 3 16 0).wellFormed = false := by decide
theorem test_wellFormed_refuses_mfc0_of_select_1 : (Instr.mfc0 3 12 1).wellFormed = false := by decide
theorem test_wellFormed_refuses_mtc0_of_no_register : (Instr.mtc0 2 10 0).wellFormed = false := by decide
theorem test_wellFormed_refuses_mtc0_of_select_7 : (Instr.mtc0 2 14 7).wellFormed = false := by decide
theorem test_wellFormed_accepts_the_six : ∀ r ∈ [8#5, 9, 11, 12, 13, 14], (Instr.mfc0 3 r 0).wellFormed = true := by decide

/-- The names of the CP0 registers are those WellFormed admits. -/
theorem test_cp0Reg_agrees_at_select_0 :
    (∀ r ∈ [8#5, 9, 11, 12, 13, 14], (cp0Reg r 0).isSome = true) ∧ ∀ r ∈ [0#5, 7, 10, 15, 24, 31], cp0Reg r 0 = none := by decide
theorem test_cp0Reg_agrees_at_number_12 : ∀ sel ∈ [1#3, 2, 3, 4, 5, 6, 7], cp0Reg 12 sel = none := by
  decide

/-! ### Decoding of the words of 95_test_vectors.md and of the rules' examples -/

theorem test_decode_arithmetic :
    decode 0x00221820 = .instr (.add 3 1 2) ∧
    decode 0x2022FFFF = .instr (.addi 2 1 0xFFFF) ∧
    decode 0x00221821 = .instr (.addu 3 1 2) ∧
    decode 0x2422FFFC = .instr (.addiu 2 1 0xFFFC) ∧
    decode 0x00221822 = .instr (.sub 3 1 2) ∧
    decode 0x00221823 = .instr (.subu 3 1 2) ∧
    decode 0x0022182A = .instr (.slt 3 1 2) ∧
    decode 0x2822FFFF = .instr (.slti 2 1 0xFFFF) ∧
    decode 0x0022182B = .instr (.sltu 3 1 2) ∧
    decode 0x2C22FFFF = .instr (.sltiu 2 1 0xFFFF) ∧
    decode 0x0022001A = .instr (.div 1 2) ∧
    decode 0x0022001B = .instr (.divu 1 2) ∧
    decode 0x00220018 = .instr (.mult 1 2) ∧
    decode 0x00220019 = .instr (.multu 1 2) := by decide

theorem test_decode_logic :
    decode 0x00221824 = .instr (.and 3 1 2) ∧
    decode 0x3022FF00 = .instr (.andi 2 1 0xFF00) ∧
    decode 0x3C01BFC0 = .instr (.lui 1 0xBFC0) ∧
    decode 0x00221827 = .instr (.nor 3 1 2) ∧
    decode 0x00221825 = .instr (.or 3 1 2) ∧
    decode 0x34228000 = .instr (.ori 2 1 0x8000) ∧
    decode 0x00221826 = .instr (.xor 3 1 2) ∧
    decode 0x3822FFFF = .instr (.xori 2 1 0xFFFF) := by decide

theorem test_decode_shift :
    decode 0x00221804 = .instr (.sllv 3 2 1) ∧
    decode 0x00021900 = .instr (.sll 3 2 4) ∧
    decode 0x00221807 = .instr (.srav 3 2 1) ∧
    decode 0x00021903 = .instr (.sra 3 2 4) ∧
    decode 0x00221806 = .instr (.srlv 3 2 1) ∧
    decode 0x00021902 = .instr (.srl 3 2 4) := by decide

theorem test_decode_branch_jump :
    decode 0x10220003 = .instr (.beq 1 2 3) ∧
    decode 0x1422FFFE = .instr (.bne 1 2 0xFFFE) ∧
    decode 0x04210004 = .instr (.bgez 1 4) ∧
    decode 0x1C200004 = .instr (.bgtz 1 4) ∧
    decode 0x18200004 = .instr (.blez 1 4) ∧
    decode 0x0420FFFF = .instr (.bltz 1 0xFFFF) ∧
    decode 0x04310004 = .instr (.bgezal 1 4) ∧
    decode 0x04300004 = .instr (.bltzal 1 4) ∧
    decode 0x0BF00100 = .instr (.j 0x3F00100) ∧
    decode 0x0FF00100 = .instr (.jal 0x3F00100) ∧
    decode 0x03E00008 = .instr (.jr 31) ∧
    decode 0x0040F809 = .instr (.jalr 31 2) := by decide

theorem test_decode_move_and_trap :
    decode 0x00001810 = .instr (.mfhi 3) ∧
    decode 0x00001812 = .instr (.mflo 3) ∧
    decode 0x00200011 = .instr (.mthi 1) ∧
    decode 0x00200013 = .instr (.mtlo 1) ∧
    decode 0x0000000D = .instr (.brk 0) ∧
    decode 0x0000000C = .instr (.syscall 0) ∧
    decode 0x03FFFFCD = .instr (.brk 0xFFFFF) ∧
    decode 0x0048D14C = .instr (.syscall 0x12345) := by decide

theorem test_decode_load_store :
    decode 0x80220004 = .instr (.lb 2 1 4) ∧
    decode 0x90220004 = .instr (.lbu 2 1 4) ∧
    decode 0x84220004 = .instr (.lh 2 1 4) ∧
    decode 0x94220004 = .instr (.lhu 2 1 4) ∧
    decode 0x8C220004 = .instr (.lw 2 1 4) ∧
    decode 0x88220004 = .instr (.lwl 2 1 4) ∧
    decode 0x98220004 = .instr (.lwr 2 1 4) ∧
    decode 0xA0220004 = .instr (.sb 2 1 4) ∧
    decode 0xA4220004 = .instr (.sh 2 1 4) ∧
    decode 0xAC220004 = .instr (.sw 2 1 4) ∧
    decode 0xA8220004 = .instr (.swl 2 1 4) ∧
    decode 0xB8220004 = .instr (.swr 2 1 4) := by decide

theorem test_decode_privileged :
    decode 0x42000018 = .instr .eret ∧
    decode 0x401A6800 = .instr (.mfc0 26 13 0) ∧
    decode 0x40826000 = .instr (.mtc0 2 12 0) := by decide

/-- TD1 to TD16, TD20 -/
theorem test_decode_unimplemented :
    ∀ w ∈ [0x70221802#32, 0x0022180A, 0x0000000F, 0x00220034, 0x04220004, 0x50220003, 0xC0220000, 0xE0220000, 0xBC000000,
      0x42000020, 0x42000002, 0x44000000, 0xC4220000, 0x41606000, 0x7C00003B, 0xFFFFFFFF, 0x42000019],
      decode w = .unimplemented := by
  simp only [List.mem_cons, List.not_mem_nil, or_false, forall_eq_or_imp, forall_eq]
  decide

/-- TD18, TD19 -/
theorem test_decode_reserved_field :
    decode 0x00221860 = .reservedField (.add 3 1 2) ∧ decode 0x3C211234 = .reservedField (.lui 1 0x1234) := by decide

theorem test_decodeTableWord :
    decodeTableWord 32 0x3C01BFC0 = some (.lui 1 0xBFC0) ∧ decodeTableWord 32 0x70221802 = none := by decide

/-- 30_encoding.md R90 -/
theorem test_decodeBytes_is_little_endian :
    decodeBytes [0xC0, 0xBF, 0x01, 0x3C] = .instr (.lui 1 0xBFC0) := by decide

/-! ### One step of each instruction -/

/-- TA5 -/
theorem test_add_carry_is_no_overflow :
    seen (exec (.add 3 1 2) (start 0xFFFFFFFF 1)) (·.reg 3) = some 0x00000000 := by decide

/-- TA3 -/
theorem test_add_overflow :
    seen (exec (.add 3 1 2) (start 0x80000000 0xFFFFFFFF)) (fun t => (t.pc, t.epc, t.excCode, t.exl, t.reg 3)) =
      some (0xBFC00380, 0x80000100, 0x0c, true, 0) := by decide

/-- TA9 -/
theorem test_addi_largest :
    seen (exec (.addi 2 1 0x7FFF) (start 0x7FFF8000 0)) (·.reg 2) = some 0x7FFFFFFF := by decide

/-- TA8 -/
theorem test_addi_overflow :
    seen (exec (.addi 3 1 0x7FFF) (start 0x7FFF8001 0)) (fun t => (t.pc, t.epc, t.excCode, t.exl, t.reg 3)) =
      some (0xBFC00380, 0x80000100, 0x0c, true, 0) := by decide

/-- TA10 -/
theorem test_addu_wraps :
    seen (exec (.addu 3 1 2) (start 0x7FFFFFFF 1)) (·.reg 3) = some 0x80000000 := by decide

/-- TA13 -/
theorem test_addiu_sign_extends :
    seen (exec (.addiu 2 1 0xFFFC) (start 2 0)) (·.reg 2) = some 0xFFFFFFFE := by decide

/-- TA15 -/
theorem test_sub_negative :
    seen (exec (.sub 3 1 2) (start 5 7)) (·.reg 3) = some 0xFFFFFFFE := by decide

/-- TA17 -/
theorem test_sub_overflow :
    seen (exec (.sub 3 1 2) (start 0 0x80000000)) (fun t => (t.pc, t.epc, t.excCode, t.exl, t.reg 3)) =
      some (0xBFC00380, 0x80000100, 0x0c, true, 0) := by decide

/-- TA20 -/
theorem test_subu_wraps :
    seen (exec (.subu 3 1 2) (start 0x80000000 1)) (·.reg 3) = some 0x7FFFFFFF := by decide

/-- TA24 -/
theorem test_slt_is_signed :
    seen (exec (.slt 3 1 2) (start 0x80000000 0x7FFFFFFF)) (·.reg 3) = some 1 := by decide

/-- TA26 -/
theorem test_slti_negative :
    seen (exec (.slti 2 1 0xFFFF) (start 0xFFFFFFFE 0)) (·.reg 2) = some 1 := by decide

/-- TA27 -/
theorem test_slti_not_less :
    seen (exec (.slti 2 1 0xFFFF) (start 0 0)) (·.reg 2) = some 0 := by decide

/-- TA28 -/
theorem test_sltu_is_unsigned :
    seen (exec (.sltu 3 1 2) (start 0xFFFFFFFF 1)) (·.reg 3) = some 0 := by decide

/-- TA31 -/
theorem test_sltiu_equal :
    seen (exec (.sltiu 2 1 0xFFFF) (start 0xFFFFFFFF 0)) (·.reg 2) = some 0 := by decide

/-- TA32 -/
theorem test_sltiu_sign_extends :
    seen (exec (.sltiu 2 1 0xFFFF) (start 0 0)) (·.reg 2) = some 1 := by decide

/-- TA48 -/
theorem test_div_negative_dividend :
    seen (exec (.div 1 2) (start 0xFFFFFFF9 2)) (fun t => (t.hi, t.lo)) = some (0xFFFFFFFF, 0xFFFFFFFD) := by decide

/-- TA49 -/
theorem test_div_negative_divisor :
    seen (exec (.div 1 2) (start 7 0xFFFFFFFE)) (fun t => (t.hi, t.lo)) = some (1, 0xFFFFFFFD) := by decide

/-- TA57, TA58 -/
theorem test_div_corners_complete :
    seen (exec (.div 1 2) (start 7 0)) (·.pc) = some 0x80000104 ∧
    seen (exec (.div 1 2) (start 0x80000000 0xFFFFFFFF)) (·.pc) = some 0x80000104 := by decide

/-- TA60 -/
theorem test_divu :
    seen (exec (.divu 1 2) (start 0xFFFFFFF9 2)) (fun t => (t.hi, t.lo)) = some (1, 0x7FFFFFFC) := by decide

/-- TA65 -/
theorem test_divu_corner_completes :
    seen (exec (.divu 1 2) (start 7 0)) (·.pc) = some 0x80000104 := by decide

/-- TA37 -/
theorem test_mult_negative :
    seen (exec (.mult 1 2) (start 0xFFFFFFFE 3)) (fun t => (t.hi, t.lo)) = some (0xFFFFFFFF, 0xFFFFFFFA) := by decide

/-- TA38 -/
theorem test_mult_smallest :
    seen (exec (.mult 1 2) (start 0x80000000 0x80000000)) (fun t => (t.hi, t.lo)) = some (0x40000000, 0) := by decide

/-- TA43 -/
theorem test_multu :
    seen (exec (.multu 1 2) (start 0xFFFFFFFE 3)) (fun t => (t.hi, t.lo)) = some (2, 0xFFFFFFFA) := by decide

/-- TA45 -/
theorem test_multu_largest :
    seen (exec (.multu 1 2) (start 0xFFFFFFFF 0xFFFFFFFF)) (fun t => (t.hi, t.lo)) = some (0xFFFFFFFE, 1) := by decide

/-- TL1 -/
theorem test_and :
    seen (exec (.and 3 1 2) (start 0xF0F0FF00 0x0FF0F0F0)) (·.reg 3) = some 0x00F0F000 := by decide

/-- TL2 -/
theorem test_or :
    seen (exec (.or 3 1 2) (start 0xF0F0FF00 0x0FF0F0F0)) (·.reg 3) = some 0xFFF0FFF0 := by decide

/-- TL3 -/
theorem test_xor :
    seen (exec (.xor 3 1 2) (start 0xF0F0FF00 0x0FF0F0F0)) (·.reg 3) = some 0xFF000FF0 := by decide

/-- TL4 -/
theorem test_nor :
    seen (exec (.nor 3 1 2) (start 0xF0F0FF00 0x0FF0F0F0)) (·.reg 3) = some 0x000F000F := by decide

/-- TL6 -/
theorem test_andi_clears_the_top :
    seen (exec (.andi 2 1 0xFF00) (start 0xFFFFFFFF 0)) (·.reg 2) = some 0x0000FF00 := by decide

/-- TL7 -/
theorem test_ori_zero_extends :
    seen (exec (.ori 2 1 0x8000) (start 0x12340000 0)) (·.reg 2) = some 0x12348000 := by decide

/-- TL8 -/
theorem test_xori_keeps_the_top :
    seen (exec (.xori 2 1 0xFFFF) (start 0xFFFFFFFF 0)) (·.reg 2) = some 0xFFFF0000 := by decide

/-- TL10 -/
theorem test_lui_clears_the_low_half :
    seen (exec (.lui 1 0x1234) (start 0xFFFFFFFF 0)) (·.reg 1) = some 0x12340000 := by decide

/-- TL13 -/
theorem test_or_to_r0 :
    seen (exec (.or 0 1 2) (start 0xF0F0FF00 0x0FF0F0F0)) (·.reg 0) = some 0 := by decide

/-- TS2 -/
theorem test_sll_31 :
    seen (exec (.sll 3 2 31) (start 0 0x80000001)) (·.reg 3) = some 0x80000000 := by decide

/-- TS4 -/
theorem test_srl :
    seen (exec (.srl 3 2 4) (start 0 0x80000001)) (·.reg 3) = some 0x08000000 := by decide

/-- TS6 -/
theorem test_sra_negative :
    seen (exec (.sra 3 2 4) (start 0 0x80000001)) (·.reg 3) = some 0xF8000000 := by decide

/-- TS8 -/
theorem test_sra_positive :
    seen (exec (.sra 3 2 4) (start 0 0x7FFFFFF0)) (·.reg 3) = some 0x07FFFFFF := by decide

/-- TS10 -/
theorem test_sllv_by_32_is_by_0 :
    seen (exec (.sllv 3 2 1) (start 0x20 0x80000001)) (·.reg 3) = some 0x80000001 := by decide

/-- TS13 -/
theorem test_srlv_by_36_is_by_4 :
    seen (exec (.srlv 3 2 1) (start 0x24 0x80000001)) (·.reg 3) = some 0x08000000 := by decide

/-- TS15 -/
theorem test_srav_by_33_is_by_1 :
    seen (exec (.srav 3 2 1) (start 0x21 0x80000001)) (·.reg 3) = some 0xC0000000 := by decide

/-- TB1 -/
theorem test_beq_taken :
    seen (exec (.beq 1 2 3) (start 5 5)) (fun t => (t.pc, t.npc, t.ds)) = some (0x80000104, 0x80000110, true) := by decide

/-- TB2 -/
theorem test_beq_not_taken :
    seen (exec (.beq 1 2 3) (start 5 6)) (fun t => (t.pc, t.npc, t.ds)) = some (0x80000104, 0x80000108, true) := by decide

/-- TB4 -/
theorem test_bne_taken_back :
    seen (exec (.bne 1 2 0xFFFE) (start 5 6)) (fun t => (t.pc, t.npc, t.ds)) = some (0x80000104, 0x800000FC, true) := by decide

/-- TB5 -/
theorem test_bne_not_taken :
    seen (exec (.bne 1 2 0xFFFE) (start 5 5)) (fun t => (t.pc, t.npc, t.ds)) = some (0x80000104, 0x80000108, true) := by decide

/-- TB6 -/
theorem test_bgez_zero :
    seen (exec (.bgez 1 4) (start 0 0)) (fun t => (t.pc, t.npc, t.ds)) = some (0x80000104, 0x80000114, true) := by decide

/-- TB7 -/
theorem test_bgez_negative :
    seen (exec (.bgez 1 4) (start 0x80000000 0)) (fun t => (t.pc, t.npc, t.ds)) = some (0x80000104, 0x80000108, true) := by decide

/-- TB8 -/
theorem test_bgtz_zero :
    seen (exec (.bgtz 1 4) (start 0 0)) (fun t => (t.pc, t.npc, t.ds)) = some (0x80000104, 0x80000108, true) := by decide

/-- TB9 -/
theorem test_bgtz_positive :
    seen (exec (.bgtz 1 4) (start 1 0)) (fun t => (t.pc, t.npc, t.ds)) = some (0x80000104, 0x80000114, true) := by decide

/-- TB10 -/
theorem test_blez_zero :
    seen (exec (.blez 1 4) (start 0 0)) (fun t => (t.pc, t.npc, t.ds)) = some (0x80000104, 0x80000114, true) := by decide

/-- TB11 -/
theorem test_blez_positive :
    seen (exec (.blez 1 4) (start 1 0)) (fun t => (t.pc, t.npc, t.ds)) = some (0x80000104, 0x80000108, true) := by decide

/-- TB13 -/
theorem test_bltz_negative :
    seen (exec (.bltz 1 0xFFFF) (start 0xFFFFFFFF 0)) (fun t => (t.pc, t.npc, t.ds)) = some (0x80000104, 0x80000100, true) := by decide

/-- TB14 -/
theorem test_bltz_zero :
    seen (exec (.bltz 1 0xFFFF) (start 0 0)) (fun t => (t.pc, t.npc, t.ds)) = some (0x80000104, 0x80000108, true) := by decide

/-- TB15 -/
theorem test_bgezal_taken :
    seen (exec (.bgezal 1 4) (start 0 0)) (fun t => (t.pc, t.npc, t.ds, t.reg 31)) = some (0x80000104, 0x80000114, true, 0x80000108) := by decide

/-- TB16 -/
theorem test_bgezal_links_not_taken :
    seen (exec (.bgezal 1 4) (start 0xFFFFFFFF 0)) (fun t => (t.pc, t.npc, t.ds, t.reg 31)) = some (0x80000104, 0x80000108, true, 0x80000108) := by decide

/-- TB17 -/
theorem test_bltzal_taken :
    seen (exec (.bltzal 1 4) (start 0xFFFFFFFF 0)) (fun t => (t.pc, t.npc, t.ds, t.reg 31)) = some (0x80000104, 0x80000114, true, 0x80000108) := by decide

/-- TB18 -/
theorem test_bltzal_links_not_taken :
    seen (exec (.bltzal 1 4) (start 0 0)) (fun t => (t.pc, t.npc, t.ds, t.reg 31)) = some (0x80000104, 0x80000108, true, 0x80000108) := by decide

/-- TB21 -/
theorem test_j :
    seen (exec (.j 0x100) (start 0 0)) (fun t => (t.pc, t.npc, t.ds)) = some (0x80000104, 0x80000400, true) := by decide

/-- TB24 -/
theorem test_j_from_the_end_of_a_region :
    seen (exec (.j 0) { start 0 0 with pc := 0x8FFFFFFC, npc := 0x90000000 }) (·.npc) = some 0x90000000 := by decide

/-- TB23 -/
theorem test_jal :
    seen (exec (.jal 0x3F00100) { start 0 0 with pc := 0xBFC00000, npc := 0xBFC00004 }) (fun t => (t.npc, t.reg 31)) =
      some (0xBFC00400, 0xBFC00008) := by decide

/-- TB26 -/
theorem test_jr_does_not_check :
    seen (exec (.jr 1) (start 0x80000202 0)) (fun t => (t.pc, t.npc, t.ds)) = some (0x80000104, 0x80000202, true) := by decide

/-- TB29 -/
theorem test_jalr_reads_before_it_links :
    seen (exec (.jalr 2 2) (start 0 0x80000300)) (fun t => (t.npc, t.reg 2)) = some (0x80000300, 0x80000108) := by decide

/-- TB28 -/
theorem test_jalr :
    seen (exec (.jalr 5 2) (start 0 0x80000300)) (fun t => (t.npc, t.reg 5, t.reg 31)) = some (0x80000300, 0x80000108, 0) := by decide

/-- TH1 -/
theorem test_mfhi :
    seen (exec (.mfhi 3) { start 0xCAFEF00D 0 with hi := 0x11111111, lo := 0x22222222 }) (·.reg 3) = some 0x11111111 := by decide

/-- TH2 -/
theorem test_mflo :
    seen (exec (.mflo 3) { start 0xCAFEF00D 0 with hi := 0x11111111, lo := 0x22222222 }) (·.reg 3) = some 0x22222222 := by decide

/-- TH3 -/
theorem test_mthi :
    seen (exec (.mthi 1) { start 0xCAFEF00D 0 with hi := 0x11111111, lo := 0x22222222 }) (fun t => (t.hi, t.lo)) = some (0xCAFEF00D, 0x22222222) := by decide

/-- TH4 -/
theorem test_mtlo :
    seen (exec (.mtlo 1) { start 0xCAFEF00D 0 with hi := 0x11111111, lo := 0x22222222 }) (fun t => (t.hi, t.lo)) = some (0x11111111, 0xCAFEF00D) := by decide

/-- TT5 -/
theorem test_syscall_in_a_delay_slot :
    seen (exec (.syscall 0) { start 0 0 with im := 0xFF, ie := true, epc := 0x12345678, ds := true }) (fun t => (t.pc, t.epc, t.bd, t.excCode, t.status)) =
      some (0xBFC00380, 0x800000FC, true, 0x08, 0x0040FF03) := by decide

/-- TT7 -/
theorem test_syscall_in_a_handler :
    seen (exec (.syscall 0) { start 0 0 with im := 0xFF, ie := true, epc := 0x12345678, exl := true }) (fun t => (t.pc, t.epc, t.bd, t.excCode, t.status)) =
      some (0xBFC00380, 0x12345678, false, 0x08, 0x0040FF03) := by decide

/-- TT4 -/
theorem test_break_ignores_its_code :
    seen (exec (.brk 0xFFFFF) { start 0 0 with im := 0xFF, ie := true, epc := 0x12345678 }) (fun t => (t.pc, t.epc, t.bd, t.excCode, t.status)) =
      some (0xBFC00380, 0x80000100, false, 0x09, 0x0040FF03) := by decide

/-- TT6 -/
theorem test_break_in_a_delay_slot :
    seen (exec (.brk 0) { start 0 0 with im := 0xFF, ie := true, epc := 0x12345678, ds := true }) (fun t => (t.pc, t.epc, t.bd, t.excCode, t.status)) =
      some (0xBFC00380, 0x800000FC, true, 0x09, 0x0040FF03) := by decide

/-- TM3 -/
theorem test_lb_sign_extends :
    seen (exec (.lb 2 1 7) (startMem 0x80001000 0xAABBCCDD)) (·.reg 2) = some 0xFFFFFF88 := by decide

/-- TM6 -/
theorem test_lb_negative_offset :
    seen (exec (.lb 2 1 0xFFFF) (startMem 0x80001008 0xAABBCCDD)) (·.reg 2) = some 0xFFFFFF88 := by decide

/-- TM4 -/
theorem test_lbu_zero_extends :
    seen (exec (.lbu 2 1 4) (startMem 0x80001000 0xAABBCCDD)) (·.reg 2) = some 0x000000FF := by decide

/-- TM9 -/
theorem test_lh_sign_extends :
    seen (exec (.lh 2 1 6) (startMem 0x80001000 0xAABBCCDD)) (·.reg 2) = some 0xFFFF8899 := by decide

/-- TM10 -/
theorem test_lh_misaligned :
    seen (exec (.lh 2 1 1) (startMem 0x80001000 0xAABBCCDD)) (fun t => (t.reg 2, t.badVAddr, t.excCode, t.epc, t.memRead 0x80001000 4)) =
      some (0xAABBCCDD, 0x80001001, 0x04, 0x80000100, 0x11223344) := by decide

/-- TM12 -/
theorem test_lhu_zero_extends :
    seen (exec (.lhu 2 1 6) (startMem 0x80001000 0xAABBCCDD)) (·.reg 2) = some 0x00008899 := by decide

/-- TM13 -/
theorem test_lhu_misaligned :
    seen (exec (.lhu 2 1 3) (startMem 0x80001000 0xAABBCCDD)) (fun t => (t.reg 2, t.badVAddr, t.excCode, t.epc, t.memRead 0x80001000 4)) =
      some (0xAABBCCDD, 0x80001003, 0x04, 0x80000100, 0x11223344) := by decide

/-- TM17 -/
theorem test_lw_misaligned :
    seen (exec (.lw 2 1 2) (startMem 0x80001000 0xAABBCCDD)) (fun t => (t.reg 2, t.badVAddr, t.excCode, t.epc, t.memRead 0x80001000 4)) =
      some (0xAABBCCDD, 0x80001002, 0x04, 0x80000100, 0x11223344) := by decide

/-- TM20 -/
theorem test_lwl_1 :
    seen (exec (.lwl 2 1 1) (startMem 0x80001000 0xAABBCCDD)) (·.reg 2) = some 0x3344CCDD := by decide

/-- TM21 -/
theorem test_lwl_2 :
    seen (exec (.lwl 2 1 2) (startMem 0x80001000 0xAABBCCDD)) (·.reg 2) = some 0x223344DD := by decide

/-- TM24 -/
theorem test_lwr_1 :
    seen (exec (.lwr 2 1 1) (startMem 0x80001000 0xAABBCCDD)) (·.reg 2) = some 0xAA112233 := by decide

/-- TM25 -/
theorem test_lwr_2 :
    seen (exec (.lwr 2 1 2) (startMem 0x80001000 0xAABBCCDD)) (·.reg 2) = some 0xAABB1122 := by decide

/-- TM46 -/
theorem test_lw_into_its_base :
    seen (exec (.lw 1 1 4) (startMem 0x80001000 0)) (·.reg 1) = some 0x8899AAFF := by decide

/-- TM30 -/
theorem test_sb :
    seen (exec (.sb 2 1 5) (startMem 0x80001000 0xAABBCCDD)) (fun t => (t.memRead 0x80001000 4, t.memRead 0x80001004 4)) =
      some (0x11223344, 0x8899DDFF) := by decide

/-- TM33 -/
theorem test_sh :
    seen (exec (.sh 2 1 6) (startMem 0x80001000 0xAABBCCDD)) (fun t => (t.memRead 0x80001000 4, t.memRead 0x80001004 4)) =
      some (0x11223344, 0xCCDDAAFF) := by decide

/-- TM34 -/
theorem test_sh_misaligned :
    seen (exec (.sh 2 1 1) (startMem 0x80001000 0xAABBCCDD)) (fun t => (t.reg 2, t.badVAddr, t.excCode, t.epc, t.memRead 0x80001000 4)) =
      some (0xAABBCCDD, 0x80001001, 0x05, 0x80000100, 0x11223344) := by decide

/-- TM35 -/
theorem test_sw :
    seen (exec (.sw 2 1 4) (startMem 0x80001000 0xAABBCCDD)) (fun t => (t.memRead 0x80001000 4, t.memRead 0x80001004 4)) =
      some (0x11223344, 0xAABBCCDD) := by decide

/-- TM36 -/
theorem test_sw_misaligned :
    seen (exec (.sw 2 1 2) (startMem 0x80001000 0xAABBCCDD)) (fun t => (t.reg 2, t.badVAddr, t.excCode, t.epc, t.memRead 0x80001000 4)) =
      some (0xAABBCCDD, 0x80001002, 0x05, 0x80000100, 0x11223344) := by decide

/-- TM39 -/
theorem test_swl_1 :
    seen (exec (.swl 2 1 1) (startMem 0x80001000 0xAABBCCDD)) (fun t => (t.memRead 0x80001000 4, t.memRead 0x80001004 4)) =
      some (0x1122AABB, 0x8899AAFF) := by decide

/-- TM40 -/
theorem test_swl_2 :
    seen (exec (.swl 2 1 2) (startMem 0x80001000 0xAABBCCDD)) (fun t => (t.memRead 0x80001000 4, t.memRead 0x80001004 4)) =
      some (0x11AABBCC, 0x8899AAFF) := by decide

/-- TM43 -/
theorem test_swr_1 :
    seen (exec (.swr 2 1 1) (startMem 0x80001000 0xAABBCCDD)) (fun t => (t.memRead 0x80001000 4, t.memRead 0x80001004 4)) =
      some (0xBBCCDD44, 0x8899AAFF) := by decide

/-- TM45 -/
theorem test_swr_3 :
    seen (exec (.swr 2 1 3) (startMem 0x80001000 0xAABBCCDD)) (fun t => (t.memRead 0x80001000 4, t.memRead 0x80001004 4)) =
      some (0xDD223344, 0x8899AAFF) := by decide

/-- TP1 -/
theorem test_eret :
    seen (exec .eret startCp0) (fun t => (t.pc, t.npc, t.ds, t.status, t.cause)) =
      some (0x80000200, 0x80000204, false, 0x0040FF01, 0x80000024) := by decide

/-- TP7 -/
theorem test_mfc0_status :
    seen (exec (.mfc0 3 12 0) startCp0) (·.reg 3) = some 0x0040FF03 := by decide

/-- TP10 -/
theorem test_mfc0_cause :
    seen (exec (.mfc0 3 13 0) { startCp0 with hwInt := 0b100001, ipSw := 2 }) (·.reg 3) = some 0x80008624 := by decide

/-- TP14 -/
theorem test_mtc0_compare_clears_TI :
    seen (exec (.mtc0 2 11 0) { startCp0 with ti := true }) (fun t => (t.compare, t.cause)) = some (0xFFFFFFFF, 0x80000024) := by decide

/-- TP17 -/
theorem test_mtc0_cause_writes_two_bits :
    seen (exec (.mtc0 2 13 0) startCp0) (·.cause) = some 0x80000324 := by decide

/-! ### The step -/

/-- TL12 -/
theorem test_step_runs_the_placed_word :
    seen (step (State.reset.withFetchWord 32 0x3C01BFC0)) (fun t => (t.reg 1, t.pc)) = some (0xBFC00000, 0xBFC00004) := by decide

/-- TX1 -/
theorem test_step_fetch_misaligned :
    seen (step { start 0 0 with pc := 0x80000102, npc := 0x80000106 }) (fun t => (t.pc, t.epc, t.badVAddr, t.cause)) =
      some (0xBFC00380, 0x80000102, 0x80000102, 0x00000010) := by decide

/-- TX6 -/
theorem test_step_unimplemented_word :
    seen (step (place (start 0 0) 0x70221802)) (fun t => (t.pc, t.epc, t.cause)) = some (0xBFC00380, 0x80000100, 0x00000028) := by decide

/-- TX14 -/
theorem test_step_timer_interrupt :
    seen (step { start 0 0 with inputs := [{ quiet with ticks := 1 }], count := 0xFFF, compare := 0x1000, im := 0x80, ie := true })
      (fun t => (t.pc, t.epc, t.count, t.cause)) = some (0xBFC00380, 0x80000100, 0x1000, 0x40008000) := by decide

/-- TX13 -/
theorem test_step_interrupt_in_a_delay_slot :
    seen (step { start 0 0 with inputs := [{ quiet with pins := 1 }], ds := true, im := 0xFF, ie := true })
      (fun t => (t.pc, t.epc, t.cause)) = some (0xBFC00380, 0x800000FC, 0x80000400) := by decide

/-- TX10 -/
theorem test_step_interrupt_masked :
    seen (step (place { start 5 6 with ipSw := 1, im := 0xFE, ie := true } 0x00221821)) (fun t => (t.pc, t.reg 3)) =
      some (0x80000104, 11) := by decide

/-! ### Devices (20_memory.md R77): what the device answers is loaded, what is stored reaches it, each once -/

theorem test_device_load :
    seen (exec (.lh 2 1 2) (startWindow .device)) (fun t => (t.reg 2, t.deviceLog)) =
      some (0xFFFFC3D4, [.read [0x1002, 0x1003]]) := by decide

/-- 20_memory.md R77, 10_state.md R22 -/
theorem test_device_load_to_r0_is_made :
    seen (exec (.lw 0 1 0) (startWindow .device)) (fun t => (t.reg 0, t.deviceLog)) =
      some (0, [.read [0x1000, 0x1001, 0x1002, 0x1003]]) := by decide

theorem test_device_store :
    seen (exec (.sh 2 1 0) (startWindow .device)) (fun t => (t.mem.get 0x1000, t.deviceLog)) =
      some (some 0x44, [.write [(0x1000, 0xDD), (0x1001, 0xCC)]]) := by decide

theorem test_device_fetch :
    seen (step { startWindow .device with pc := 0x80001000, npc := 0x80001004 }) (fun t => (t.reg 3, t.deviceLog)) =
      some (0x2ABBDCDD, [.read [0x1000, 0x1001, 0x1002, 0x1003]]) := by decide

/-- 20_memory.md R83 -/
theorem test_incoherent_fetch_refused :
    step { startMem 0 0 with pc := 0x80001004, npc := 0x80001008, cfg := { defaultPlatform with ifetchCoherent := false } } =
      .refused .incoherentFetch := rfl

/-- 00_scope.md R8, PABITS (the cut is the model's, log 4) -/
theorem test_narrow_physical_address :
    Machine.translate { defaultPlatform with paBits := 29 } 0xFFFFFFFF = 0x1FFFFFFF ∧ Machine.translate defaultPlatform 0xFFFFFFFF = 0xFFFFFFFF := by decide

/-! ### Witnesses: concrete states and operands that meet the hypotheses of each statement -/

/-- An outcome whose next state is shown to have a property. -/
theorem next_with {r : Res} {p : State → Prop} [DecidablePred p] (h : seen r (fun t => decide (p t)) = some true) :
    ∃ t, r = .next t ∧ p t := by
  cases r with
  | next t => exact ⟨t, rfl, of_decide_eq_true (Option.some.inj h)⟩
  | fault _ => cases h
  | refused _ => cases h

/-- The hypotheses of the statements about a fetch, but for the word fetched. -/
def fetches (s : State) : Bool :=
  !s.sample.interruptTaken s.input.holdOff && decide (s.pc.toNat % 4 = 0) && s.backed s.pc 4 && s.fetchSees

/-- A state whose pc is the last word of the address space. -/
def atTheEnd : State := { start 5 6 with pc := 0xFFFFFFFC, npc := 0 }

/-- A state whose pc is misaligned. -/
def misaligned (low : Word) (exl : Bool) : State :=
  { start 0 0 with pc := 0x80000100 + low, npc := 0x80000104 + low, exl := exl }

/-- A state with interrupt line `n` (a pin) raised and unmasked. -/
def interrupted (n : Nat) : State :=
  { start 0 0 with inputs := [{ quiet with pins := 1#6 <<< (n - 2) }], ipSw := 1, im := 1#8 <<< n, ie := true }

/-- A state about to store, over the next instruction at `base`, the word of ADDU r3, r1, r2. -/
def storing (base : Word) (coherent : Bool) : State :=
  { startMem base 0x00221821 with npc := base, cfg := { defaultPlatform with ifetchCoherent := coherent } }

theorem witness_DecodedWordIsTheEncoding :
    decode 0x00221820 = .instr (.add 3 1 2) ∧ decode 0x00221860 = .reservedField (.add 3 1 2) := by decide

theorem witness_StepRunsTheDecodedInstruction :
    ∀ s ∈ [place (start 5 6) 0x00221821, place atTheEnd 0x00221821, { startWindow .device with pc := 0x80001000 }],
      fetches s = true ∧ decodeBytes s.sample.fetchBytes = .instr (.addu 3 1 2) := by decide

theorem witness_StoredWordIsTheNextInstruction :
    ∀ s ∈ [storing 0x80001000 true, storing 0xFFFFFFFC true, storing 0x80001000 false, storing 0xFFFFFFFC false],
      (s.dataAddr 1 0).toNat % 4 = 0 ∧ s.ordinary (s.dataAddr 1 0) 4 = true ∧ s.npc = s.dataAddr 1 0 ∧
        decode (s.reg 2) = .instr (.addu 3 1 2) := by decide

theorem witness_StoredWordIsTheNextInstruction_step :
    ∀ coherent ∈ [true, false],
      seen (exec (.sw 2 1 0) (storing 0x80001000 coherent)) (fun t => t.sample.interruptTaken t.input.holdOff) = some false := by decide

theorem witness_UnimplementedWordTraps :
    fetches (place (start 0 0) 0x70221802) = true ∧
      decodeBytes (place (start 0 0) 0x70221802).sample.fetchBytes = .unimplemented := by decide

theorem witness_ReservedFieldPolicies :
    ∀ p ∈ [Config.ReservedFieldPolicy.refuse, .ri, .ignore],
      let s := place { start 5 6 with cfg := { defaultPlatform with reservedFields := p } } 0x00221860
      fetches s = true ∧ decodeBytes s.sample.fetchBytes = .reservedField (.add 3 1 2) ∧ s.cfg.reservedFields = p := by decide

theorem witness_MisalignedFetchTraps :
    ∀ low ∈ [1#32, 2#32, 3#32], ∀ exl ∈ [false, true],
      (misaligned low exl).Inv ∧ (misaligned low exl).sample.interruptTaken (misaligned low exl).input.holdOff = false ∧
      (misaligned low exl).pc.toNat % 4 ≠ 0 ∧ (misaligned low exl).exl = exl := by
  simp only [List.mem_cons, List.not_mem_nil, or_false]
  rintro low (rfl | rfl | rfl) exl (rfl | rfl) <;>
    exact ⟨⟨by decide, by decide, by decide, by decide, by decide, by decide, fun _ => by decide⟩, by decide⟩

theorem witness_InterruptIsTaken_at_once :
    ∀ n ∈ [2, 6, 7], let s := interrupted n
      n < 8 ∧ s.ie = true ∧ s.exl = false ∧ s.sample.lineActive n = true ∧ s.im.getLsbD n = true ∧ s.input.holdOff = false := by decide

theorem witness_InterruptIsTaken_held_back :
    ∀ k ∈ [0, 3],
      let s := { interrupted 0 with inputs := [{ quiet with holdOff := true }], intHeld := k, cfg := { defaultPlatform with intLatency := k } }
      s.ie = true ∧ s.exl = false ∧ s.sample.lineActive 0 = true ∧ s.im.getLsbD 0 = true ∧ s.input.holdOff = true ∧
        s.cfg.intLatency ≤ s.intHeld := by decide

theorem witness_InterruptIsMasked :
    { interrupted 7 with ie := false }.ie = false ∧ { interrupted 7 with exl := true }.exl = true ∧
      ∀ n, n < 8 → ({ interrupted 7 with im := 0x7E }.sample.lineActive n && { interrupted 7 with im := 0x7E }.im.getLsbD n) = false := by decide

theorem witness_StepKeepsTheInvariant :
    (place (start 5 6) 0x10220003).Inv ∧ ∃ t, step (place (start 5 6) 0x10220003) = .next t := by exact
    ⟨⟨by decide, by decide, by decide, by decide, by decide, by decide, fun _ => by decide⟩, next_of_seen (by decide)⟩

theorem witness_ParametersNeverChange :
    ∃ t, step (place (start 5 6) 0x00221821) = .next t := next_of_seen (by decide)

theorem witness_InstructionEndings :
    ∀ i ∈ [Instr.addu 3 1 2, .beq 1 2 3, .eret, .syscall 0], ∃ t, exec i (start 5 6) = .next t := by
  simp only [List.mem_cons, List.not_mem_nil, or_false]
  rintro i (rfl | rfl | rfl | rfl) <;> exact next_of_seen (by decide)

theorem witness_BadVAddrOnlyByAddressErrors :
    ∃ t, step (misaligned 2 false) = .next t ∧ t.badVAddr ≠ (misaligned 2 false).badVAddr := next_with (by decide)

theorem witness_BadVAddrOnlyByAddressErrors_store :
    ∃ t, step (place (startMem 0x80001000 0) 0xAC220002) = .next t ∧
      t.badVAddr ≠ (place (startMem 0x80001000 0) 0xAC220002).badVAddr := next_with (by decide)

theorem witness_HiLoOnlyByTheirInstructions :
    ∃ t, exec (.mult 1 2) (start 0xFFFFFFFE 3) = .next t ∧
      t.hi ≠ (start 0xFFFFFFFE 3).hi ∧ t.lo ≠ (start 0xFFFFFFFE 3).lo := next_with (by decide)

theorem witness_SoftwareFieldsOnlyByMtc0_Status :
    ∃ t, exec (.mtc0 2 12 0) (start 0 0xFFFFFFFF) = .next t ∧ t.im ≠ (start 0 0xFFFFFFFF).im ∧ t.ie ≠ (start 0 0xFFFFFFFF).ie := next_with (by decide)

theorem witness_SoftwareFieldsOnlyByMtc0_Compare :
    ∃ t, exec (.mtc0 2 11 0) { start 0 1 with ti := true } = .next t ∧ t.compare ≠ 0 ∧ t.ti ≠ true := next_with (by decide)

theorem witness_SoftwareFieldsOnlyByMtc0_Count :
    ∃ t, exec (.mtc0 2 9 0) { start 0 1 with compare := 1, tiRace := true } = .next t ∧ t.count ≠ 0 ∧ t.ti ≠ false := next_with (by decide)

theorem witness_SoftwareFieldsOnlyByMtc0_Cause :
    ∃ t, exec (.mtc0 2 13 0) (start 0 0x100) = .next t ∧ t.ipSw ≠ 0 := next_with (by decide)

theorem witness_ExceptionLevelChanges_set :
    ∃ t, exec (.brk 0) (start 0 0) = .next t ∧ t.exl ≠ (start 0 0).exl := next_with (by decide)

theorem witness_ExceptionLevelChanges_cleared :
    ∃ t, exec .eret startCp0 = .next t ∧ t.exl ≠ startCp0.exl := next_with (by decide)

theorem witness_ExceptionLevelChanges_written :
    ∃ t, exec (.mtc0 2 12 0) (start 0 2) = .next t ∧ t.exl ≠ (start 0 2).exl := next_with (by decide)

theorem witness_ReturnAddressFrozenInHandler :
    startCp0.exl = true ∧ ∃ t, exec (.mtc0 2 14 0) startCp0 = .next t ∧ t.epc ≠ startCp0.epc := ⟨by decide, next_with (by decide)⟩

theorem witness_EretReturns :
    startCp0.ds = false := by decide

theorem witness_TrapAndReturn :
    ((Instr.syscall 0 = .syscall 0 ∧ 0x08#5 = 0x08#5) ∨ (Instr.syscall 0 = .brk 0 ∧ 0x08#5 = 0x09#5)) ∧
    (start 0 0).exl = false ∧ { start 0 0 with ds := true }.exl = false ∧ { start 0 0 with ds := true }.ds = true := by decide

theorem witness_CheckedArithmeticInRange_add :
    ∀ p ∈ [(0x7FFFFFFE#32, 1#32), (0x80000001#32, 0xFFFFFFFF#32)],
      -2 ^ 31 ≤ ((start p.1 p.2).reg 1).toInt + ((start p.1 p.2).reg 2).toInt ∧
      ((start p.1 p.2).reg 1).toInt + ((start p.1 p.2).reg 2).toInt < 2 ^ 31 := by
  simp only [List.mem_cons, List.not_mem_nil, or_false, forall_eq_or_imp, forall_eq]
  decide

theorem witness_CheckedArithmeticInRange_addi :
    ∀ p ∈ [(0x7FFF8000#32, 0x7FFF#16), (0x80008000#32, 0x8000#16)],
      -2 ^ 31 ≤ ((start p.1 0).reg 1).toInt + p.2.toInt ∧ ((start p.1 0).reg 1).toInt + p.2.toInt < 2 ^ 31 := by
  simp only [List.mem_cons, List.not_mem_nil, or_false, forall_eq_or_imp, forall_eq]
  decide

theorem witness_CheckedArithmeticInRange_sub :
    ∀ p ∈ [(0x7FFFFFFE#32, 0xFFFFFFFF#32), (0x80000001#32, 1#32)],
      -2 ^ 31 ≤ ((start p.1 p.2).reg 1).toInt - ((start p.1 p.2).reg 2).toInt ∧
      ((start p.1 p.2).reg 1).toInt - ((start p.1 p.2).reg 2).toInt < 2 ^ 31 := by
  simp only [List.mem_cons, List.not_mem_nil, or_false, forall_eq_or_imp, forall_eq]
  decide

theorem witness_OverflowTraps_add :
    2 ^ 31 ≤ ((start 0x7FFFFFFF 1).reg 1).toInt + ((start 0x7FFFFFFF 1).reg 2).toInt ∧
      ((start 0x80000000 0xFFFFFFFF).reg 1).toInt + ((start 0x80000000 0xFFFFFFFF).reg 2).toInt < -2 ^ 31 := by decide

theorem witness_OverflowTraps_addi :
    2 ^ 31 ≤ ((start 0x7FFF8001 0).reg 1).toInt + (0x7FFF#16).toInt ∧
      ((start 0x80007FFF 0).reg 1).toInt + (0x8000#16).toInt < -2 ^ 31 := by decide

theorem witness_OverflowTraps_sub :
    2 ^ 31 ≤ ((start 0 0x80000000).reg 1).toInt - ((start 0 0x80000000).reg 2).toInt ∧
      ((start 0x80000000 1).reg 1).toInt - ((start 0x80000000 1).reg 2).toInt < -2 ^ 31 := by decide

theorem witness_OverflowTraps_only :
    (start 0x7FFFFFFF 1).excCode ≠ 0x0c#5 ∧ ∃ t, exec (.add 3 1 2) (start 0x7FFFFFFF 1) = .next t ∧ t.excCode = 0x0c#5 := ⟨by decide, next_with (by decide)⟩

theorem witness_Division :
    ∀ p ∈ [(0x80000000#32, 1#32), (0x7FFFFFFF#32, 0xFFFFFFFF#32), (0x80000000#32, 0xFFFFFFFE#32)],
      (start p.1 p.2).reg 2 ≠ 0#32 ∧ ¬ ((start p.1 p.2).reg 1 = 0x80000000#32 ∧ (start p.1 p.2).reg 2 = 0xFFFFFFFF#32) := by
  simp only [List.mem_cons, List.not_mem_nil, or_false, forall_eq_or_imp, forall_eq]
  decide

theorem witness_DivisionCorners :
    (start 7 0).reg 2 = 0#32 ∧ (start 0x80000000 0).reg 2 = 0#32 ∧
      (start 0x80000000 0xFFFFFFFF).reg 1 = 0x80000000#32 ∧ (start 0x80000000 0xFFFFFFFF).reg 2 = 0xFFFFFFFF#32 := by decide

theorem witness_ConditionalBranches :
    (start 5 6).ds = false ∧ atTheEnd.ds = false := by decide

theorem witness_LinkingBranches :
    (start 5 6).ds = false ∧ atTheEnd.ds = false := by decide

theorem witness_Jumps :
    (start 5 6).ds = false ∧ atTheEnd.ds = false := by decide

theorem witness_TransferInDelaySlotRefused :
    { start 5 6 with ds := true }.ds = true ∧ isBranchOrJump (.jr 31) = true ∧ isBranchOrJump (.beq 1 2 3) = true := by decide

theorem witness_Loads :
    ∀ offset ∈ [0#16, 1#16, 2#16, 3#16, 0xFFFF#16], (startMem 0x80001000 0).backed ((startMem 0x80001000 0).dataAddr 1 offset) 1 = true := by
  simp only [List.mem_cons, List.not_mem_nil, or_false, forall_eq_or_imp, forall_eq]
  decide

theorem witness_Loads_half :
    ∀ offset ∈ [0#16, 2#16, 0xFFFE#16], ((startMem 0x80001000 0).dataAddr 1 offset).toNat % 2 = 0 ∧
      (startMem 0x80001000 0).backed ((startMem 0x80001000 0).dataAddr 1 offset) 2 = true := by
  simp only [List.mem_cons, List.not_mem_nil, or_false, forall_eq_or_imp, forall_eq]
  decide

theorem witness_Loads_word :
    ∀ base ∈ [0x80001000#32, 0xFFFFFFFC#32, 0#32], ((startMem base 0).dataAddr 1 0).toNat % 4 = 0 ∧
      (startMem base 0).backed ((startMem base 0).dataAddr 1 0) 4 = true := by
  simp only [List.mem_cons, List.not_mem_nil, or_false, forall_eq_or_imp, forall_eq]
  decide

theorem witness_LoadWordLeftAndRight :
    ∀ k ∈ [0, 1, 2, 3],
      let s := startMem 0x80001000 0xAABBCCDD
      let va := s.dataAddr 1 (BitVec.ofNat 16 k)
      va.toNat % 4 = k ∧ s.backed (alignedWord va) (k + 1) = true ∧ s.backed va (4 - k) = true := by decide

theorem witness_Stores :
    ∀ base ∈ [0x80001000#32, 0xFFFFFFFC#32, 0#32],
      let s := startMem base 0
      let va := s.dataAddr 1 0
      va.toNat % 4 = 0 ∧ va.toNat % 2 = 0 ∧ s.backed va 1 = true ∧ s.backed va 2 = true ∧ s.backed va 4 = true := by
  simp only [List.mem_cons, List.not_mem_nil, or_false, forall_eq_or_imp, forall_eq]
  decide

theorem witness_StoreWordLeftAndRight :
    ∀ k ∈ [0, 1, 2, 3],
      let s := startMem 0x80001000 0xAABBCCDD
      let va := s.dataAddr 1 (BitVec.ofNat 16 k)
      va.toNat % 4 = k ∧ s.backed (alignedWord va) (k + 1) = true ∧ s.backed va (4 - k) = true := by decide

theorem witness_MisalignedLoadTraps :
    (∀ offset ∈ [1#16, 2#16, 3#16], ((startMem 0x80001000 0).dataAddr 1 offset).toNat % 4 ≠ 0) ∧
      ∀ offset ∈ [1#16, 3#16], ((startMem 0x80001000 0).dataAddr 1 offset).toNat % 2 ≠ 0 := by
  simp only [List.mem_cons, List.not_mem_nil, or_false, forall_eq_or_imp, forall_eq]
  decide

theorem witness_MisalignedStoreTraps :
    (∀ offset ∈ [1#16, 2#16, 3#16], ((startMem 0x80001000 0).dataAddr 1 offset).toNat % 4 ≠ 0) ∧
      ∀ offset ∈ [1#16, 3#16], ((startMem 0x80001000 0).dataAddr 1 offset).toNat % 2 ≠ 0 := by
  simp only [List.mem_cons, List.not_mem_nil, or_false, forall_eq_or_imp, forall_eq]
  decide

theorem witness_EveryAddressAccepted :
    (∀ w ∈ (startWindow .device).cfg.windows, w.kind ≠ .unbacked) ∧ Instr.swl 2 1 3 ∈ [Instr.lb 2 1 3, .lbu 2 1 3, .sb 2 1 3,
      .lwl 2 1 3, .lwr 2 1 3, .swl 2 1 3, .swr 2 1 3] ∧ ∃ t, exec (.swl 2 1 3) (startWindow .device) = .next t := ⟨by decide, by decide, next_of_seen (by decide)⟩

theorem witness_AccessOutsideMemoryStops :
    ∀ s ∈ [startWindow .unbacked],
      (∀ n ∈ [1, 2, 4], firstUnbacked s.cfg (s.physAddrs (s.dataAddr 1 0) n) = some 0x1000) ∧
      (∀ j ∈ [0, 1, 2, 3], firstUnbacked s.cfg (s.physAddrs (alignedWord (s.dataAddr 1 (BitVec.ofNat 16 j))) (j + 1)) = some 0x1000 ∧
        firstUnbacked s.cfg (s.physAddrs (s.dataAddr 1 (BitVec.ofNat 16 j)) (4 - j)) = some (0x1000 + j)) ∧
      (s.dataAddr 1 0).toNat % 4 = 0 := by decide

theorem witness_AccessOutsideMemoryStops_fetch :
    ∀ s ∈ [{ startWindow .unbacked with pc := 0x80001000, npc := 0x80001004 }],
      s.sample.interruptTaken s.input.holdOff = false ∧ s.pc.toNat % 4 = 0 ∧
        firstUnbacked s.cfg (s.physAddrs s.pc 4) = some 0x1000 := by decide

theorem witness_AccessOutsideMemoryStops_stored :
    ∀ pa ∈ [0x1004, 0x1007],
      let s := { startMem 0 0 with pc := 0x80001004, npc := 0x80001008, cfg := { defaultPlatform with ifetchCoherent := false } }
      s.sample.interruptTaken s.input.holdOff = false ∧ s.pc.toNat % 4 = 0 ∧ s.backed s.pc 4 = true ∧
        s.cfg.ifetchCoherent = false ∧ pa ∈ s.stored ∧ pa ∈ s.physAddrs s.pc 4 := by decide

theorem witness_DevicesReachedOnce_load :
    ∃ t, exec (.lb 2 1 3) (startWindow .device) = .next t ∧ t.deviceLog ≠ (startWindow .device).deviceLog := next_with (by decide)

theorem witness_DevicesReachedOnce_store :
    ∃ t, exec (.swr 2 1 3) (startWindow .device) = .next t ∧ t.deviceLog ≠ (startWindow .device).deviceLog := next_with (by decide)

theorem witness_UnalignedLoadPair :
    ∀ k ∈ [0, 1, 2, 3],
      let s := startMem 0x80001000 0xAABBCCDD
      let offset := BitVec.ofNat 16 k
      platformOk s.cfg = true ∧ (2#5 ≠ 1#5 ∨ 2#5 = 0#5) ∧ offset.toInt + 3 < 2 ^ 15 ∧
        ∀ j, j < 4 → s.ordinary (s.dataAddr 1 offset + BitVec.ofNat 32 j) 1 = true := by decide

theorem witness_UnalignedStorePair :
    ∀ k ∈ [0, 1, 2, 3],
      let s := startMem 0x80001000 0xAABBCCDD
      let offset := BitVec.ofNat 16 k
      platformOk s.cfg = true ∧ (2#5 ≠ 1#5 ∨ 2#5 = 0#5) ∧ offset.toInt + 3 < 2 ^ 15 ∧
        ∀ j, j < 4 → s.ordinary (s.dataAddr 1 offset + BitVec.ofNat 32 j) 1 = true := by decide

theorem witness_MixedWidthReadBack :
    ∀ base ∈ [0x80001000#32, 0xFFFFFFFC#32, 0#32],
      let s := startMem base 0
      platformOk s.cfg = true ∧ (s.dataAddr 1 0).toNat % 4 = 0 ∧ s.ordinary (s.dataAddr 1 0) 4 = true := by
  simp only [List.mem_cons, List.not_mem_nil, or_false, forall_eq_or_imp, forall_eq]
  decide

theorem witness_Translation :
    platformOk defaultPlatform = true ∧ (0xFFFFFFFC#32).toNat % 4 = 0 ∧ (0x1FFFFFFF#32).toNat < 2 ^ 29 ∧
      (0x7FFFFFFF#32).toNat < 0x80000000 ∧ 0xC0000000 ≤ (0xC0000000#32).toNat := by decide

theorem witness_AbsentCp0Registers :
    1#3 ≠ 0#3 ∧ (10#5).toNat ∉ [8, 9, 11, 12, 13, 14] := by decide

theorem witness_Cp0ReadBack :
    3#5 ≠ 0#5 := by decide

end Sys2Proof.Tests
end

-- Proofs of 00_scope.md: what no step changes.
section

namespace Sys2Proof.Proofs

open Sys2Proof.Machine

variable {i : Instr} {s t : State}

/-- Part 1 of a step and the note of the fetch leave the parameters. -/
@[simp] theorem atExecute_cfg (s : State) : s.atExecute.cfg = s.cfg := by
  simp [State.atExecute]

/-- No CP0 register is a parameter. -/
@[simp] theorem writeCp0_cfg (s : State) (rd : BitVec 5) (sel : BitVec 3) (v : Word) :
    (s.writeCp0 rd sel v).cfg = s.cfg := by
  rcases s.writeCp0_cases rd sel v with h | ⟨-, -, h⟩ | ⟨-, -, h⟩ | ⟨-, -, h⟩ | ⟨-, -, h⟩ | ⟨-, -, h⟩ <;> simp [h]

/-- No effect of an instruction reaches the parameters. -/
theorem effect_cfg (h : Effect i s t) : t.cfg = s.cfg := by
  cases h with
  | reg | hiLo | mthi | mtlo | load | store | branch | link | sys | bp | ov | adEL | adES | eret => simp
  | mtc0 rt rd sel => simp only [State.advance_cfg, writeCp0_cfg]

theorem exec_cfg (h : exec i s = .next t) : t.cfg = s.cfg :=
  effect_cfg (exec_cases h)

theorem step_cfg (h : step s = .next t) : t.cfg = s.cfg := by
  rcases step_cases s t h with ⟨-, rfl⟩ | ⟨-, -, rfl⟩ | ⟨-, -, -, -, ⟨i, -, hexec⟩ | ⟨-, rfl⟩⟩
  case inl => simp
  case inr.inl => simp
  case inr.inr.inl =>
    calc t.cfg = s.atExecute.cfg := exec_cfg hexec
      _ = s.cfg := atExecute_cfg s
  case inr.inr.inr => simp

/-- Settles O16, by the four endings of a step (`step_cases`) and the effects of an instruction (`exec_cases`). -/
theorem parametersNeverChange : Obligations.ParametersNeverChange :=
  fun _ _ => step_cfg

end Sys2Proof.Proofs
end

-- Proofs of 10_state.md: the invariant, which every step keeps.
section

namespace Sys2Proof.Proofs

open Sys2Proof.Machine

variable {i : Instr} {s t : State}

/-! ### Physical addresses -/

/-- A legal segment is a word long at least, so that a word of physical addresses fits. -/
theorem four_dvd_physicalSpace {p : Config.Platform} (hp : platformOk p = true) : 4 ∣ 2 ^ p.paBits := by
  simp only [platformOk, Bool.and_eq_true, beq_iff_eq, List.all_eq_true] at hp
  obtain ⟨⟨⟨⟨hlen, -⟩, -⟩, -⟩, hseg⟩ := hp
  obtain ⟨g, hg⟩ := List.exists_mem_of_length_pos (by omega : 0 < p.segmap.length)
  have hok := hseg g hg
  simp only [segmentOk, aligned4_eq, Bool.and_eq_true, decide_eq_true_eq] at hok
  obtain ⟨⟨⟨⟨hle, hbase⟩, hend⟩, -⟩, hfits⟩ := hok
  have hbig : 3 < 2 ^ p.paBits := by bv_omega
  have hbits : 2 ≤ p.paBits := (Nat.pow_lt_pow_iff_right (by decide)).mp (by omega : 2 ^ 1 < 2 ^ p.paBits)
  exact Nat.pow_dvd_pow 2 hbits

/-- Under a legal SEGMAP an address keeps its place in its word (20_memory.md R68). -/
theorem linearMap_mod_four {p : Config.Platform} (hp : platformOk p = true) (va : Word) :
    linearMap p va % 4 = va.toNat % 4 := by
  unfold linearMap
  split
  case h_2 => rfl
  case h_1 g hfind =>
    simp only [platformOk, Bool.and_eq_true, List.all_eq_true] at hp
    obtain ⟨-, hseg⟩ := hp
    have hin : inSegment va g = true := List.find?_some hfind
    have hok := hseg g (List.mem_of_find?_eq_some hfind)
    simp only [segmentOk, inSegment, aligned4_eq, Bool.and_eq_true, decide_eq_true_eq] at hin hok
    obtain ⟨⟨⟨⟨-, hbase⟩, -⟩, hpbase⟩, -⟩ := hok
    bv_omega

/-- No byte of an access inside one word leaves the space of PABITS bits. -/
theorem physAddr_lt (hp : platformOk s.cfg = true) {va : Word} {k : Nat} (hk : va.toNat % 4 + k < 4) :
    s.physAddr va k < 2 ^ s.cfg.paBits := by
  have hspace := four_dvd_physicalSpace hp
  have hplace : Machine.translate s.cfg va % 4 = va.toNat % 4 := by
    rw [Machine.translate, Nat.mod_mod_of_dvd _ hspace, linearMap_mod_four hp]
  have hlt : Machine.translate s.cfg va < 2 ^ s.cfg.paBits := Nat.mod_lt _ (Nat.two_pow_pos _)
  unfold State.physAddr
  omega

/-! ### What keeps the invariant -/

theorem inv_sample (hs : s.Inv) : s.sample.Inv := { hs with }

theorem inv_noteHeld (hs : s.Inv) : s.noteHeld.Inv := { hs with }

theorem inv_noteRead (hs : s.Inv) (va : Word) (n : Nat) : (s.noteRead va n).Inv := { hs with }

theorem inv_setReg (hs : s.Inv) (r : RegNum) (v : Word) : (s.setReg r v).Inv :=
  { hs with zeroSlot := (s.slot_setReg r v).trans hs.zeroSlot }

/-- An instruction that goes on leaves no delay slot pending. -/
theorem inv_advance (hs : s.Inv) : s.advance.Inv :=
  { hs with straight := fun _ => rfl, slotAligned := nofun }

/-- A transfer outside a delay slot: the slot is the word after an aligned `pc`. -/
theorem inv_branchTo (hs : s.Inv) (hd : s.ds = false) (hpc : aligned4 s.pc = true) (taken : Bool) (target : Word) :
    (s.branchTo taken target).Inv :=
  { hs with
    straight := nofun
    slotAligned := fun _ => by
      have hnpc := hs.straight hd
      simp only [State.branchTo_pc, aligned4_eq, decide_eq_true_eq] at hpc ⊢
      bv_omega }

theorem inv_memWrite (hs : s.Inv) {va : Word} {n : Nat} (hn : va.toNat % 4 + n ≤ 4) (v : Word) :
    (s.memWrite va n v).Inv :=
  { hs with
    memWf := s.memWrite_wf va n v hs.memWf
    storedRising := insertAddrs_rising _ _ hs.storedRising
    memInSpace := fun hp c hc => by
      rcases s.mem_memWrite va n v c hc with ⟨k, hk, hpa⟩ | hc
      · rw [← hpa]
        exact physAddr_lt hp (by omega)
      · exact hs.memInSpace hp c hc }

theorem code_legal (c : ExcCode) : c.code ∈ legalExcCodes := by
  cases c <;> decide

theorem inv_enterException (hs : s.Inv) (c : ExcCode) (bad : Option Word) : (s.enterException c bad).Inv :=
  { hs with straight := fun _ => rfl, slotAligned := nofun, codeLegal := code_legal c }

theorem inv_exceptionReturn (hs : s.Inv) : s.exceptionReturn.Inv :=
  { hs with straight := fun _ => rfl, slotAligned := nofun }

/-- MTC0 writes no field the invariant speaks of. -/
theorem inv_writeCp0 (hs : s.Inv) (rd : BitVec 5) (sel : BitVec 3) (v : Word) : (s.writeCp0 rd sel v).Inv := by
  rcases s.writeCp0_cases rd sel v with h | ⟨-, -, h⟩ | ⟨-, -, h⟩ | ⟨-, -, h⟩ | ⟨-, -, h⟩ | ⟨-, -, h⟩ <;> rw [h]
  case inl => exact hs
  all_goals exact { hs with }

theorem effect_inv (hs : s.Inv) (hpc : aligned4 s.pc = true) (h : Effect i s t) : t.Inv := by
  cases h with
  | reg r v => exact inv_advance (inv_setReg hs r v)
  | hiLo | mthi | mtlo => exact inv_advance { hs with }
  | load va n r v => exact inv_advance (inv_setReg (inv_noteRead hs va n) r v)
  | store va n v _ _ _ hn => exact inv_advance (inv_memWrite hs hn v)
  | branch taken target _ hd => exact inv_branchTo hs hd hpc taken target
  | link r taken target _ hd => exact inv_branchTo (inv_setReg hs r _) hd hpc taken target
  | sys | bp | ov | adEL | adES => exact inv_enterException hs _ _
  | eret => exact inv_exceptionReturn hs
  | mtc0 rt rd sel => exact inv_advance (inv_writeCp0 hs rd sel _)

theorem step_inv (hs : s.Inv) (h : step s = .next t) : t.Inv := by
  have hexecute : s.atExecute.Inv := inv_noteRead (inv_noteHeld (inv_sample hs)) s.pc 4
  rcases step_cases s t h with ⟨-, rfl⟩ | ⟨-, -, rfl⟩ | ⟨-, hpc, -, -, ⟨i, -, hexec⟩ | ⟨-, rfl⟩⟩
  case inl => exact { inv_enterException (inv_sample hs) .int none with }
  case inr.inl => exact inv_enterException (inv_noteHeld (inv_sample hs)) _ _
  case inr.inr.inl => exact effect_inv hexecute hpc (exec_cases hexec)
  case inr.inr.inr => exact inv_enterException hexecute _ _

/-- Settles O15, by the endings of a step (`step_cases`): each keeps the invariant, and an instruction runs only at an
aligned `pc`, so that the slot behind a branch is aligned. -/
theorem stepKeepsTheInvariant : Obligations.StepKeepsTheInvariant :=
  fun _ _ => step_inv

/-- Settles O13: the state after reset is concrete, its memory and its list of stored addresses empty. -/
theorem resetMeetsTheInvariant : Obligations.ResetMeetsTheInvariant :=
  ⟨{ straight := fun _ => rfl
     slotAligned := nofun
     codeLegal := code_legal .int
     zeroSlot := rfl
     memWf := Memory.wf_reset
     storedRising := .nil
     memInSpace := fun _ => nofun }, by decide⟩

end Sys2Proof.Proofs
end

-- Proofs of 10_state.md: what an instruction may change, the CP0 registers read back, and the path of one step.
section

namespace Sys2Proof.Proofs

open Sys2Proof.Machine

variable {i : Instr} {s t : State}

/-! ### What an instruction may change -/

/-- MTC0 leaves HI, LO and `npc`, and BadVAddr is read-only (10_state.md R35). -/
theorem writeCp0_keeps (s : State) (rd : BitVec 5) (sel : BitVec 3) (v : Word) :
    (s.writeCp0 rd sel v).npc = s.npc ∧ (s.writeCp0 rd sel v).hi = s.hi ∧ (s.writeCp0 rd sel v).lo = s.lo ∧
      (s.writeCp0 rd sel v).badVAddr = s.badVAddr := by
  rcases s.writeCp0_cases rd sel v with h | ⟨-, -, h⟩ | ⟨-, -, h⟩ | ⟨-, -, h⟩ | ⟨-, -, h⟩ | ⟨-, -, h⟩ <;> simp [h]

/-- Settles O18, by the effects of an instruction: each but a transfer, ERET and an exception entry ends in `advance`. -/
theorem instructionEndings : Obligations.InstructionEndings := by
  intro i s t h
  cases exec_cases h with
  | reg _ _ hb he | load _ _ _ _ hb he | store _ _ _ hb he => exact .inl ⟨hb, he, rfl, rfl, rfl⟩
  | hiLo _ _ _ hi => rcases hi with rfl | rfl | rfl | rfl <;> exact .inl ⟨rfl, nofun, rfl, rfl, rfl⟩
  | mthi _ hi | mtlo _ hi => subst hi; exact .inl ⟨rfl, nofun, rfl, rfl, rfl⟩
  | mtc0 rt rd sel hi =>
    obtain ⟨hnpc, -⟩ := writeCp0_keeps s rd sel (s.reg rt)
    subst hi
    exact .inl ⟨rfl, nofun, hnpc, congrArg (· + 4) hnpc, rfl⟩
  | branch _ _ hb | link _ _ _ hb => exact .inr (.inl ⟨hb, _, rfl, rfl, rfl⟩)
  | eret hi => exact .inr (.inr (.inl ⟨hi, rfl, rfl, rfl⟩))
  | sys _ hi | bp _ hi => subst hi; exact .inr (.inr (.inr ⟨rfl, rfl, rfl, rfl, rfl⟩))
  | ov _ _ _ _ hi => rcases hi with rfl | rfl | rfl <;> exact .inr (.inr (.inr ⟨rfl, rfl, rfl, rfl, rfl⟩))
  | adEL _ hb | adES _ hb => exact .inr (.inr (.inr ⟨hb, rfl, rfl, rfl, rfl⟩))

/-- Of the instructions only those that take an address error change BadVAddr. -/
theorem effect_badVAddr (h : Effect i s t) :
    t.badVAddr = s.badVAddr ∨ ((t.excCode = 0x04#5 ∨ t.excCode = 0x05#5) ∧ t.exl = true ∧ t.pc = exceptionVector) := by
  cases h with
  | reg | hiLo | mthi | mtlo | load | store | branch | link | sys | bp | ov | eret => exact .inl rfl
  | mtc0 rt rd sel =>
    obtain ⟨-, -, -, hbad⟩ := writeCp0_keeps s rd sel (s.reg rt)
    exact .inl hbad
  | adEL => exact .inr ⟨.inl rfl, rfl, rfl⟩
  | adES => exact .inr ⟨.inr rfl, rfl, rfl⟩

/-- Settles O19, by the endings of a step: the fetch's address error, or an instruction's. -/
theorem badVAddrOnlyByAddressErrors : Obligations.BadVAddrOnlyByAddressErrors := by
  intro s t h hne
  rcases step_cases s t h with ⟨-, rfl⟩ | ⟨-, -, rfl⟩ | ⟨-, -, -, -, ⟨i, -, hexec⟩ | ⟨-, rfl⟩⟩
  case inl => exact absurd rfl hne
  case inr.inl => exact ⟨.inl rfl, rfl, rfl⟩
  case inr.inr.inl => exact (effect_badVAddr (exec_cases hexec)).resolve_left hne
  case inr.inr.inr => exact absurd rfl hne

/-- Settles O20, by the effects of an instruction. -/
theorem hiLoOnlyByTheirInstructions : Obligations.HiLoOnlyByTheirInstructions := by
  intro i s t h
  cases exec_cases h with
  | reg | load | store | branch | link | sys | bp | ov | adEL | adES | eret =>
    exact ⟨fun hne => absurd rfl hne, fun hne => absurd rfl hne⟩
  | hiLo rs rt _ hi =>
    rcases hi with rfl | rfl | rfl | rfl <;> exact ⟨fun _ => ⟨rs, rt, by simp⟩, fun _ => ⟨rs, rt, by simp⟩⟩
  | mthi rs hi => exact ⟨fun _ => ⟨rs, 0, by simp [hi]⟩, fun hne => absurd rfl hne⟩
  | mtlo rs hi => exact ⟨fun hne => absurd rfl hne, fun _ => ⟨rs, 0, by simp [hi]⟩⟩
  | mtc0 rt rd sel =>
    obtain ⟨-, hhi, hlo, -⟩ := writeCp0_keeps s rd sel (s.reg rt)
    exact ⟨fun hne => absurd hhi hne, fun hne => absurd hlo hne⟩

/-- The fields of Status, Cause, Compare and Count that neither an exception entry nor a return from one writes. -/
structure SameSoftwareFields (s t : State) : Prop where
  im : t.im = s.im
  ie : t.ie = s.ie
  compare : t.compare = s.compare
  count : t.count = s.count
  ipSw : t.ipSw = s.ipSw
  ti : t.ti = s.ti

/-- An instruction other than MTC0 leaves the software's fields alone. -/
theorem effect_softwareFields (h : Effect i s t) : SameSoftwareFields s t ∨
    ∃ rt rd sel, i = .mtc0 rt rd sel ∧ t = (s.writeCp0 rd sel (s.reg rt)).advance := by
  cases h with
  | reg | hiLo | mthi | mtlo | load | store | branch | link | sys | bp | ov | adEL | adES | eret =>
    exact .inl ⟨rfl, rfl, rfl, rfl, rfl, rfl⟩
  | mtc0 rt rd sel hi => exact .inr ⟨rt, rd, sel, hi, rfl⟩

/-- Settles O21: only MTC0 comes into question (`effect_softwareFields`), and then the register it names decides
(`State.writeCp0_cases`). -/
theorem softwareFieldsOnlyByMtc0 : Obligations.SoftwareFieldsOnlyByMtc0 := by
  intro i s t h
  rcases effect_softwareFields (exec_cases h) with hsame | ⟨rt, rd, sel, rfl, rfl⟩
  case inl => simp [hsame.im, hsame.ie, hsame.compare, hsame.count, hsame.ipSw, hsame.ti]
  case inr =>
    rcases s.writeCp0_cases rd sel (s.reg rt) with
      hw | ⟨rfl, rfl, hw⟩ | ⟨rfl, rfl, hw⟩ | ⟨rfl, rfl, hw⟩ | ⟨rfl, rfl, hw⟩ | ⟨rfl, rfl, hw⟩ <;> simp [hw]

/-- Settles O22, by the effects of an instruction: entry and ERET write EXL, and of the CP0 registers Status does. -/
theorem exceptionLevelChanges : Obligations.ExceptionLevelChanges := by
  intro i s t h hne
  cases exec_cases h with
  | reg | hiLo | mthi | mtlo | load | store | branch | link => exact absurd rfl hne
  | sys | bp | ov | adEL | adES => exact .inl ⟨rfl, rfl⟩
  | eret hi => exact .inr (.inl ⟨rfl, hi⟩)
  | mtc0 rt rd sel hi =>
    rcases s.writeCp0_cases rd sel (s.reg rt) with hw | ⟨-, -, hw⟩ | ⟨-, -, hw⟩ | ⟨rfl, rfl, -⟩ | ⟨-, -, hw⟩ | ⟨-, -, hw⟩
    case inr.inr.inr.inl => exact .inr (.inr ⟨rt, hi⟩)
    all_goals exact absurd (by simp [hw]) hne

/-! ### Status and Cause -/

/-- The Status word bit by bit (10_state.md R38, R43). -/
theorem status_getLsbD (s : State) {n : Nat} (hn : n < 32) : s.status.getLsbD n =
    if n = 0 then s.ie else if n = 1 then s.exl else if n < 8 then false else if n < 16 then s.im.getLsbD (n - 8)
    else decide (n = 22) := by
  change BitVec.getLsbD (w := 9 + 1 + 6 + 8 + 6 + 1 + 1)
    (0#9 ++ 1#1 ++ 0#6 ++ s.im ++ 0#6 ++ BitVec.ofBool s.exl ++ BitVec.ofBool s.ie) n = _
  simp only [BitVec.getLsbD_append]
  interval_cases n <;> simp

/-- The Cause word bit by bit (10_state.md R44, R50). -/
theorem cause_getLsbD (s : State) {n : Nat} (hn : n < 32) : s.cause.getLsbD n =
    if n < 2 then false else if n < 7 then s.excCode.getLsbD (n - 2) else if n < 8 then false
    else if n < 16 then s.lineActive (n - 8) else if n < 30 then false else if n = 30 then s.ti else s.bd := by
  change BitVec.getLsbD (w := 1 + 1 + 14 + 8 + 1 + 5 + 2)
    (BitVec.ofBool s.bd ++ BitVec.ofBool s.ti ++ 0#14 ++ s.interruptLines ++ 0#1 ++ s.excCode ++ 0#2) n = _
  simp only [BitVec.getLsbD_append]
  interval_cases n <;> simp [← State.interruptLines_getLsbD]

/-- Status after a write: the written IM, EXL and IE, and Bev (10_state.md R39, R43). -/
theorem status_setStatus (s : State) (v : Word) :
    (s.setStatus v).status = v &&& 0x0000FF03#32 ||| 0x00400000#32 := by
  apply BitVec.eq_of_getLsbD_eq
  intro n hn
  rw [status_getLsbD _ hn, BitVec.getLsbD_or, BitVec.getLsbD_and]
  interval_cases n <;> simp

/-- Cause after a write: only IP1 and IP0 are the written ones (10_state.md R50). -/
theorem cause_setCause (s : State) (v : Word) :
    (s.setCause v).cause = s.cause &&& 0xFFFFFCFF#32 ||| v &&& 0x00000300#32 := by
  apply BitVec.eq_of_getLsbD_eq
  intro n hn
  rw [BitVec.getLsbD_or, BitVec.getLsbD_and, BitVec.getLsbD_and, cause_getLsbD _ hn, cause_getLsbD _ hn]
  interval_cases n <;> simp [State.lineActive]

/-- A CP0 register written by MTC0 and then read by MFC0 gives what a read gives right after the write. -/
theorem mfc0_after_mtc0 (rt : RegNum) {q : RegNum} (hq : q ≠ 0#5) (s : State) (rd : BitVec 5) {v : Word}
    (hread : (s.writeCp0 rd 0#3 (s.reg rt)).readCp0 rd 0#3 = v) :
    ∃ t u, exec (.mtc0 rt rd 0) s = .next t ∧ exec (.mfc0 q rd 0) t = .next u ∧ u.reg q = v := by
  refine ⟨_, _, rfl, rfl, ?_⟩
  rw [State.advance_reg, State.reg_setReg, if_pos ⟨rfl, hq⟩]
  exact hread

/-- Settles O59, register by register: what the write leaves in the register is what the read assembles. -/
theorem cp0ReadBack : Obligations.Cp0ReadBack := by
  intro rt q s hq readsBack
  refine ⟨mfc0_after_mtc0 rt hq s 8 ?badVAddr, mfc0_after_mtc0 rt hq s 9 ?count, mfc0_after_mtc0 rt hq s 11 ?compare,
    mfc0_after_mtc0 rt hq s 14 ?epc, mfc0_after_mtc0 rt hq s 12 ?status, mfc0_after_mtc0 rt hq s 13 ?cause⟩
  case badVAddr | count | compare | epc => rfl
  case status => exact status_setStatus s (s.reg rt)
  case cause => exact cause_setCause s (s.reg rt)

/-! ### The step, reset and r0 -/

/-- Settles O5: no interrupt, an aligned `pc`, an access that is backed and a fetch that sees memory leave one path through
`State.cycle`; the log of the fetch is `State.readLog_eq`. -/
theorem stepRunsTheDecodedInstruction : Obligations.StepRunsTheDecodedInstruction := by
  intro s i hint hpc hbacked hsees hdecode
  have haligned : aligned4 s.pc = true := by rw [aligned4_eq, decide_eq_true hpc]
  constructor
  · calc step s = s.sample.noteHeld.fetchExecute := by simp [step, State.cycle, hint]
      _ = s.sample.noteHeld.fetchRun := by
        simp only [State.fetchExecute, State.noteHeld_pc, State.sample_pc, haligned, if_true]
        exact State.withAccess_of_backed _ _ _ _ hbacked
      _ = s.atExecute.runDecoded (decodeBytes s.sample.fetchBytes) := by
        simp [State.fetchRun, hsees, State.atExecute]
      _ = exec i s.atExecute := by rw [hdecode]; rfl
  · rw [State.atExecute, State.noteRead, State.readLog_eq]
    rfl

/-- Settles O14, field by field of the concrete state. -/
theorem resetValues : Obligations.ResetValues :=
  ⟨State.reg_zero _, rfl, rfl, by decide, by decide⟩

/-- Settles O17: r0 is never read from the file (`State.reg_zero`), and a write to it puts back the file as it was. -/
theorem zeroRegister : Obligations.ZeroRegister :=
  ⟨State.reg_zero, fun _ _ => rfl⟩

end Sys2Proof.Proofs
end

-- Proofs of 20_memory.md: which accesses go on and which stop, and what reaches a device.
section

namespace Sys2Proof.Proofs

open Sys2Proof.Machine

variable {i : Instr} {s t : State}

/-! ### An access with nothing behind it -/

/-- An access stops at the first address with nothing behind it (20_memory.md R79). -/
theorem withAccess_of_unbacked {va : Word} {n pa : Nat} (h : firstUnbacked s.cfg (s.physAddrs va n) = some pa)
    (k : Res) : s.withAccess va n k = .fault (.unbacked pa) := by
  rw [State.withAccess, h]

/-- The test of alignment comes first (47_load_store.md R191), so an aligned access is the plain one. -/
theorem loadAligned_of_aligned {ok : Bool} (hok : ok = true) (r : RegNum) (va : Word) (n : Nat) (f : Word → Word) :
    s.loadAligned ok r va n f = s.load r va n f :=
  if_pos hok

theorem storeAligned_of_aligned {ok : Bool} (hok : ok = true) (va : Word) (n : Nat) (v : Word) :
    s.storeAligned ok va n v = s.store va n v :=
  if_pos hok

theorem aligned4_of_mod {va : Word} (h : va.toNat % 4 = 0) : aligned4 va = true := by
  rw [aligned4_eq, decide_eq_true h]

theorem aligned2_of_mod {va : Word} (h : va.toNat % 2 = 0) : aligned2 va = true := by
  rw [aligned2_eq, decide_eq_true h]

/-- A step that takes no interrupt, at an aligned `pc`, is the access of the fetch. -/
theorem step_eq_fetch (hint : s.sample.interruptTaken s.input.holdOff = false) (hpc : s.pc.toNat % 4 = 0) :
    step s = s.sample.noteHeld.withAccess s.pc 4 s.sample.noteHeld.fetchRun := by
  simp [step, State.cycle, hint, State.fetchExecute, aligned4_of_mod hpc]

/-- Where IFETCH_COHERENT is false, one byte stored to is enough to spoil the fetch (20_memory.md R83). -/
theorem fetchSees_of_stored {pa : Nat} (hcoherent : s.cfg.ifetchCoherent = false) (hstored : pa ∈ s.stored)
    (hfetched : pa ∈ s.physAddrs s.pc 4) : s.fetchSees = false := by
  rw [State.fetchSees, hcoherent, Bool.false_or, List.all_eq_false]
  exact ⟨pa, hfetched, by simpa using hstored⟩

/-- Settles O51: the fetch is one access (`step_eq_fetch`), and so is each load and store whose address passes its test of
alignment. -/
theorem accessOutsideMemoryStops : Obligations.AccessOutsideMemoryStops := by
  constructor
  case left =>
    intro s pa hint hpc
    rw [step_eq_fetch hint hpc]
    refine ⟨fun hunbacked => withAccess_of_unbacked hunbacked _, fun hbacked hcoherent hstored hfetched => ?_⟩
    have hsees : s.sample.noteHeld.fetchSees = false := fetchSees_of_stored hcoherent hstored hfetched
    calc s.sample.noteHeld.withAccess s.pc 4 s.sample.noteHeld.fetchRun
        = s.sample.noteHeld.fetchRun := State.withAccess_of_backed _ _ _ _ hbacked
      _ = .refused .incoherentFetch := by rw [State.fetchRun, hsees]; rfl
  case right =>
    intro rt base offset s i pa va k accesses first n align haccess halign hunbacked
    have hk : byteInWord va = k := byteInWord_eq va
    obtain ⟨rest, hexec⟩ : ∃ rest, exec i s = s.withAccess first n rest := by
      simp only [accesses, List.mem_cons, List.not_mem_nil, or_false, Prod.mk.injEq, ← hk] at haccess
      rcases haccess with ⟨rfl, rfl, rfl, rfl⟩ | ⟨rfl, rfl, rfl, rfl⟩ | ⟨rfl, rfl, rfl, rfl⟩ | ⟨rfl, rfl, rfl, rfl⟩ |
        ⟨rfl, rfl, rfl, rfl⟩ | ⟨rfl, rfl, rfl, rfl⟩ | ⟨rfl, rfl, rfl, rfl⟩ | ⟨rfl, rfl, rfl, rfl⟩ |
        ⟨rfl, rfl, rfl, rfl⟩ | ⟨rfl, rfl, rfl, rfl⟩ | ⟨rfl, rfl, rfl, rfl⟩ | ⟨rfl, rfl, rfl, rfl⟩
      exacts [⟨_, rfl⟩, ⟨_, rfl⟩, ⟨_, loadAligned_of_aligned (aligned2_of_mod halign) _ _ _ _⟩,
        ⟨_, loadAligned_of_aligned (aligned2_of_mod halign) _ _ _ _⟩,
        ⟨_, loadAligned_of_aligned (aligned4_of_mod halign) _ _ _ _⟩, ⟨_, rfl⟩, ⟨_, rfl⟩,
        ⟨_, rfl⟩, ⟨_, storeAligned_of_aligned (aligned2_of_mod halign) _ _ _⟩,
        ⟨_, storeAligned_of_aligned (aligned4_of_mod halign) _ _ _⟩, ⟨_, rfl⟩, ⟨_, rfl⟩]
    rw [hexec]
    exact withAccess_of_unbacked hunbacked rest

/-! ### Accesses that test no alignment -/

/-- A platform of memory and devices has something behind every address. -/
theorem backed_of_no_hole (h : ∀ w ∈ s.cfg.windows, w.kind ≠ .unbacked) (va : Word) (n : Nat) :
    s.backed va n = true := by
  rw [State.backed_iff]
  intro k _ hwindow
  obtain ⟨w, hfind, hkind⟩ := Option.map_eq_some_iff.mp hwindow
  exact h w (List.mem_of_find?_eq_some hfind) hkind

/-- The byte accesses and the unaligned-word instructions are loads and stores without a test of their address
(20_memory.md R67). -/
theorem exec_untested {rt base : RegNum} {offset : BitVec 16} (s : State)
    (hi : i ∈ [Instr.lb rt base offset, .lbu rt base offset, .sb rt base offset, .lwl rt base offset,
      .lwr rt base offset, .swl rt base offset, .swr rt base offset]) :
    (∃ r va n f, exec i s = s.load r va n f) ∨ ∃ va n v, exec i s = s.store va n v := by
  simp only [List.mem_cons, List.not_mem_nil, or_false] at hi
  rcases hi with rfl | rfl | rfl | rfl | rfl | rfl | rfl
  case inl | inr.inl | inr.inr.inr.inl | inr.inr.inr.inr.inl =>
    simp only [exec, execLb, execLbu, execLwl, execLwr]
    exact .inl ⟨_, _, _, _, rfl⟩
  case inr.inr.inl | inr.inr.inr.inr.inr.inl | inr.inr.inr.inr.inr.inr => exact .inr ⟨_, _, _, rfl⟩

/-- Settles O50: such an access (`exec_untested`) ends as a load or a store does, wherever its bytes are backed. -/
theorem everyAddressAccepted : Obligations.EveryAddressAccepted := by
  intro i rt base offset s hi
  rcases exec_untested s hi with ⟨r, va, n, f, hexec⟩ | ⟨va, n, v, hexec⟩ <;> rw [hexec]
  case inl =>
    refine ⟨fun t h => ?_, fun hwindows => ⟨_, (s.load_next _ r va n f).mpr ⟨backed_of_no_hole hwindows va n, rfl⟩⟩⟩
    obtain ⟨-, rfl⟩ := (s.load_next t r va n f).mp h
    have hloaded := s.loaded_advance va n r (f (s.memRead va n))
    exact ⟨hloaded.goesOn, hloaded.cp0⟩
  case inr =>
    refine ⟨fun t h => ?_, fun hwindows => ⟨_, (s.store_next _ va n v).mpr ⟨backed_of_no_hole hwindows va n, rfl⟩⟩⟩
    obtain ⟨-, rfl⟩ := (s.store_next t va n v).mp h
    have hstored := s.stored_advance va n v
    exact ⟨hstored.goesOn, hstored.cp0⟩

/-! ### Devices -/

/-- No CP0 register is a device (20_memory.md R77). -/
theorem writeCp0_deviceLog (s : State) (rd : BitVec 5) (sel : BitVec 3) (v : Word) :
    (s.writeCp0 rd sel v).deviceLog = s.deviceLog := by
  rcases s.writeCp0_cases rd sel v with h | ⟨-, -, h⟩ | ⟨-, -, h⟩ | ⟨-, -, h⟩ | ⟨-, -, h⟩ | ⟨-, -, h⟩ <;> simp [h]

/-- A read that changes the log has added one event, of addresses that are all devices'. -/
theorem readLog_of_ne {va : Word} {n : Nat} (hne : s.readLog va n ≠ s.deviceLog) :
    ∃ pas, pas ≠ [] ∧ s.readLog va n = .read pas :: s.deviceLog ∧ ∀ pa ∈ pas, s.isDevice pa = true := by
  rw [State.readLog_eq] at hne ⊢
  have htouches : s.touchesDevice va n = true := (ite_ne_right_iff.mp hne).1
  obtain ⟨pa, hpa, hdevice⟩ := List.any_eq_true.mp htouches
  exact ⟨_, List.ne_nil_of_mem (List.mem_filter.mpr ⟨hpa, hdevice⟩), if_pos htouches,
    fun _ h => (List.mem_filter.mp h).2⟩

/-- The bytes of a write that go to devices. -/
theorem mem_deviceCells (s : State) (va : Word) (n : Nat) (v : Word) (c : Host.Cell) : c ∈ s.deviceCells va n v ↔
    ∃ k < n, s.isDevice (s.physAddr va k) = true ∧ (s.physAddr va k, byteOf v k) = c := by
  simp [State.deviceCells, and_assoc]

/-- A write that changes the log has added one event, of bytes that all went to devices. -/
theorem writeLog_of_ne {va : Word} {n : Nat} {v : Word} (hne : s.writeLog va n v ≠ s.deviceLog) :
    ∃ cells, cells ≠ [] ∧ s.writeLog va n v = .write cells :: s.deviceLog ∧ ∀ c ∈ cells, s.isDevice c.1 = true := by
  rw [State.writeLog_eq] at hne ⊢
  have htouches : s.touchesDevice va n = true := (ite_ne_right_iff.mp hne).1
  obtain ⟨pa, hpa, hdevice⟩ := List.any_eq_true.mp htouches
  obtain ⟨k, hk, rfl⟩ := (s.mem_physAddrs va n pa).mp hpa
  refine ⟨_, List.ne_nil_of_mem ((mem_deviceCells s va n v _).mpr ⟨k, hk, hdevice, rfl⟩), if_pos htouches, ?_⟩
  intro c hc
  obtain ⟨_, _, hdevice, rfl⟩ := (mem_deviceCells s va n v c).mp hc
  exact hdevice

/-- A write leaves what memory lists at a device's address (20_memory.md R77). -/
theorem get_memWrite_of_device {pa : Nat} (hdevice : s.isDevice pa = true) (va : Word) (n : Nat) (v : Word) :
    (s.memWrite va n v).mem.get pa = s.mem.get pa :=
  Memory.get_setBytes_of_notMem _ _ _ _ _ (.inr (by rw [hdevice]; rfl))

/-- Settles O60, by the effects of an instruction: only a read and a write of the bus reach the log. -/
theorem devicesReachedOnce : Obligations.DevicesReachedOnce := by
  intro i s t h hne
  cases exec_cases h with
  | reg | hiLo | mthi | mtlo | branch | link | sys | bp | ov | adEL | adES | eret => exact absurd rfl hne
  | mtc0 rt rd sel => exact absurd (writeCp0_deviceLog s rd sel (s.reg rt)) hne
  | load va n r v _ _ hl => exact .inl ⟨hl, readLog_of_ne hne⟩
  | store va n v _ _ hl =>
    obtain ⟨cells, hcells, hlog, hdevice⟩ := writeLog_of_ne hne
    exact .inr ⟨hl, cells, hcells, hlog, fun c hc => ⟨hdevice c hc, get_memWrite_of_device (hdevice c hc) va n v⟩⟩

end Sys2Proof.Proofs
end

-- Proofs of 20_memory.md: the mapping of addresses, and what a stored word reads back as.
section

namespace Sys2Proof.Proofs

open Sys2Proof.Machine

variable {s : State} {p : Config.Platform}

/-! ### Translation -/

theorem segmentOk_of_mem (hp : platformOk p = true) {g : Config.Segment} (hg : g ∈ p.segmap) :
    segmentOk p.paBits g = true := by
  simp only [platformOk, Bool.and_eq_true, List.all_eq_true] at hp
  obtain ⟨-, hsegments⟩ := hp
  exact hsegments g hg

/-- A legal segment holds a word whole or not at all. -/
theorem inSegment_add {g : Config.Segment} {paBits : Nat} (hok : segmentOk paBits g = true) {va : Word} {k : Nat}
    (hk : va.toNat % 4 + k < 4) : inSegment (va + BitVec.ofNat 32 k) g = inSegment va g := by
  simp only [segmentOk, aligned4_eq, Bool.and_eq_true, decide_eq_true_eq] at hok
  obtain ⟨⟨⟨⟨hle, hbase⟩, hend⟩, -⟩, -⟩ := hok
  rw [inSegment, inSegment, Bool.eq_iff_iff]
  simp only [Bool.and_eq_true, decide_eq_true_eq]
  bv_omega

/-- A legal SEGMAP is linear inside a word (20_memory.md R68). -/
theorem linearMap_add (hp : platformOk p = true) {va : Word} {k : Nat} (hk : va.toNat % 4 + k < 4) :
    linearMap p (va + BitVec.ofNat 32 k) = linearMap p va + k := by
  have hfind : p.segmap.find? (inSegment (va + BitVec.ofNat 32 k)) = p.segmap.find? (inSegment va) :=
    List.find?_congr fun g hg => inSegment_add (segmentOk_of_mem hp hg) hk
  rw [linearMap, linearMap, hfind]
  cases hg : p.segmap.find? (inSegment va) with
  | none => bv_omega
  | some g =>
    have hin : inSegment va g = true := List.find?_some hg
    have hok := segmentOk_of_mem hp (List.mem_of_find?_eq_some hg)
    simp only [segmentOk, inSegment, aligned4_eq, Bool.and_eq_true, decide_eq_true_eq] at hin hok
    obtain ⟨⟨⟨⟨hle, hbase⟩, hend⟩, -⟩, -⟩ := hok
    bv_omega

/-- Under a legal SEGMAP a physical address keeps its place in its word. -/
theorem translate_mod_four (hp : platformOk p = true) (va : Word) : Machine.translate p va % 4 = va.toNat % 4 := by
  rw [Machine.translate, Nat.mod_mod_of_dvd _ (four_dvd_physicalSpace hp), linearMap_mod_four hp]

theorem translate_lt (p : Config.Platform) (va : Word) : Machine.translate p va < 2 ^ p.paBits :=
  Nat.mod_lt _ (Nat.two_pow_pos _)

/-- The bytes of a word stay together (20_memory.md R72): the cut to PABITS bits falls between words. -/
theorem translate_add (hp : platformOk p = true) {va : Word} {k : Nat} (hk : va.toNat % 4 + k < 4) :
    Machine.translate p (va + BitVec.ofNat 32 k) = Machine.translate p va + k := by
  have hspace := four_dvd_physicalSpace hp
  have hplace := translate_mod_four hp va
  have hlt := translate_lt p va
  have hfits : Machine.translate p va + k < 2 ^ p.paBits := by omega
  calc Machine.translate p (va + BitVec.ofNat 32 k)
      = (linearMap p va + k) % 2 ^ p.paBits := by rw [Machine.translate, linearMap_add hp hk]
    _ = (Machine.translate p va + k) % 2 ^ p.paBits := by rw [Machine.translate, Nat.mod_add_mod]
    _ = Machine.translate p va + k := Nat.mod_eq_of_lt hfits

/-- The default map (20_memory.md R69, PRESUMED, log 4): kseg0 and kseg1 onto the low 512 MB, the rest onto itself. -/
theorem translate_default (va : Word) : Machine.translate defaultPlatform va =
    if va.toNat < 0x80000000 then va.toNat
    else if va.toNat < 0xA0000000 then va.toNat - 0x80000000
    else if va.toNat < 0xC0000000 then va.toNat - 0xA0000000
    else va.toNat := by
  unfold Machine.translate linearMap
  split
  case h_1 g hfind =>
    have hin : inSegment va g = true := List.find?_some hfind
    have hg : g ∈ defaultSegmap := List.mem_of_find?_eq_some hfind
    simp only [defaultSegmap, List.mem_cons, List.not_mem_nil, or_false] at hg
    simp only [inSegment, Bool.and_eq_true, decide_eq_true_eq] at hin
    rw [show defaultPlatform.paBits = 32 from rfl]
    rcases hg with rfl | rfl | rfl | rfl | rfl
    all_goals split_ifs <;> bv_omega
  case h_2 hfind =>
    have hmissed : ∀ g ∈ defaultSegmap, ¬ inSegment va g = true := List.find?_eq_none.mp hfind
    simp only [defaultSegmap, inSegment, List.forall_mem_cons, Bool.and_eq_true, decide_eq_true_eq] at hmissed
    bv_omega

/-- Settles O55: the general clause by `translate_add`, the default map by `translate_default`. -/
theorem translation : Obligations.Translation := by
  refine ⟨fun p va k hp hva hk => ?word, fun x hx => ?low, fun va hva => ?identity, by decide⟩
  case word =>
    have hspace := four_dvd_physicalSpace hp
    have hplace := translate_mod_four hp va
    have hlt := translate_lt p va
    exact ⟨translate_add hp (by omega), by omega, by omega⟩
  case low =>
    have hkseg0 : (0x80000000#32 + x).toNat = 0x80000000 + x.toNat := by bv_omega
    have hkseg1 : (0xA0000000#32 + x).toNat = 0xA0000000 + x.toNat := by bv_omega
    rw [translate_default, translate_default, hkseg0, hkseg1]
    constructor <;> split_ifs <;> omega
  case identity =>
    rw [translate_default]
    split_ifs <;> omega

/-! ### Reading back what was stored -/

/-- Ordinary memory is no device, and there is something behind it. -/
theorem isDevice_of_ordinary {va : Word} {n k : Nat} (h : s.ordinary va n = true) (hk : k < n) :
    s.isDevice (s.physAddr va k) = false := by
  have hnone := List.all_eq_true.mp h _ ((s.mem_physAddrs va n _).mpr ⟨k, hk, rfl⟩)
  rw [State.isDevice, Option.isNone_iff_eq_none.mp hnone]
  rfl

theorem backed_of_ordinary {va : Word} {n : Nat} (h : s.ordinary va n = true) : s.backed va n = true := by
  rw [State.backed_iff]
  intro k hk
  have hnone := List.all_eq_true.mp h _ ((s.mem_physAddrs va n _).mpr ⟨k, hk, rfl⟩)
  rw [Option.isNone_iff_eq_none.mp hnone]
  nofun

/-- SW at an aligned address of ordinary memory completes. -/
theorem sw_of_ordinary {rt base : RegNum} {offset : BitVec 16} (hva : (s.dataAddr base offset).toNat % 4 = 0)
    (hord : s.ordinary (s.dataAddr base offset) 4 = true) :
    exec (.sw rt base offset) s = .next (s.memWrite (s.dataAddr base offset) 4 (s.reg rt)).advance :=
  (s.storeAligned_next _ _ _ _ _).mpr (.inr ⟨aligned4_of_mod hva, backed_of_ordinary hord, rfl⟩)

/-- A run of bytes of a word, put together, is the bits they were (20_memory.md R63). -/
theorem leWord_byteOf (v : Word) (d n : Nat) :
    leWord ((List.range n).map fun j => byteOf v (d + j)) = BitVec.ofNat 32 (v.toNat / 2 ^ (8 * d) % 2 ^ (8 * n)) := by
  induction n generalizing d with
  | zero => simp [leWord, Nat.mod_one]
  | succ n ih =>
    have htail : (List.range n).map ((fun j => byteOf v (d + j)) ∘ Nat.succ) =
        (List.range n).map fun j => byteOf v (d + 1 + j) :=
      List.map_congr_left fun j _ => congrArg (byteOf v) (by simp only [Nat.succ_eq_add_one]; omega)
    rw [List.range_succ_eq_map, List.map_cons, List.map_map, htail, leWord, ih (d + 1)]
    apply BitVec.eq_of_getLsbD_eq
    intro i hi
    simp only [byteOf, BitVec.getLsbD_or, BitVec.getLsbD_shiftLeft, BitVec.getLsbD_ofNat, Nat.testBit_mod_two_pow,
      Nat.testBit_div_two_pow, BitVec.testBit_toNat, BitVec.getLsbD_setWidth, BitVec.getLsbD_extractLsb']
    by_cases hlow : i < 8
    · have hrange : i < 8 * (n + 1) := by omega
      simp [hlow, hi, hrange, Nat.add_comm]
    · have hrange : i - 8 < 8 * n ↔ i < 8 * (n + 1) := by omega
      have hbit : i - 8 + 8 * (d + 1) = i + 8 * d := by omega
      have hword : i - 8 < 32 := by omega
      simp [hlow, hi, hrange, hbit, hword]

/-- After a store to ordinary memory, an access inside the bytes stored finds them there, whatever a device would answer. -/
theorem busBytes_memWrite {va b : Word} {d m n : Nat} (hord : s.ordinary va m = true) (hinside : d + n ≤ m)
    (hplace : Machine.translate s.cfg b = Machine.translate s.cfg va + d) (v answer : Word) :
    (s.memWrite va m v).busBytes answer b n = (List.range n).map fun j => byteOf v (d + j) := by
  refine List.map_congr_left fun j hj => ?_
  have hjm : d + j < m := by have := List.mem_range.mp hj; omega
  have haddr : (s.memWrite va m v).physAddr b j = s.physAddr va (d + j) := by
    rw [State.memWrite_physAddr, State.physAddr, State.physAddr, hplace, Nat.add_assoc]
  have hmemory : s.isDevice (s.physAddr va (d + j)) = false := isDevice_of_ordinary hord hjm
  rw [State.busByte, haddr, State.memWrite_isDevice, hmemory]
  exact s.readByte_memWrite va m v (d + j) hjm hmemory

/-- The same for the value read. -/
theorem memRead_memWrite {va b : Word} {d m n : Nat} (hord : s.ordinary va m = true) (hinside : d + n ≤ m)
    (hplace : Machine.translate s.cfg b = Machine.translate s.cfg va + d) (v : Word) :
    (s.memWrite va m v).advance.memRead b n = BitVec.ofNat 32 (v.toNat / 2 ^ (8 * d) % 2 ^ (8 * n)) :=
  (congrArg leWord (busBytes_memWrite hord hinside hplace v _)).trans (leWord_byteOf v d n)

/-- All four bytes of a word are the word. -/
theorem ofNat_word (v : Word) : BitVec.ofNat 32 (v.toNat / 2 ^ (8 * 0) % 2 ^ (8 * 4)) = v := by
  rw [Nat.mul_zero, pow_zero, Nat.div_one, Nat.mod_eq_of_lt v.isLt, BitVec.ofNat_toNat, BitVec.setWidth_eq]

/-- Settles O54: a legal SEGMAP keeps the bytes of the word together (`translate_add`), so each access lies inside the
bytes stored (`memRead_memWrite`). -/
theorem mixedWidthReadBack : Obligations.MixedWidthReadBack := by
  intro rt base offset s va hp hva hord
  refine ⟨_, sw_of_ordinary hva hord, ?word, fun h hh => ?half, fun k hk => ?byte⟩
  case word => exact (memRead_memWrite hord (by omega) rfl _).trans (ofNat_word _)
  case half =>
    rw [memRead_memWrite hord (by omega) (translate_add hp (by omega)), show 8 * (2 * h) = 16 * h by omega]
  case byte => exact memRead_memWrite hord (by omega) (translate_add hp (by omega)) _

/-- The word stored at the address of the next instruction is the one the next step fetches. -/
theorem fetched_after_store {va : Word} (hord : s.ordinary va 4 = true) (hnpc : s.npc = va) (v : Word) :
    decodeBytes (s.memWrite va 4 v).advance.sample.fetchBytes = decode v := by
  have hbytes : (s.memWrite va 4 v).advance.sample.fetchBytes =
      (s.memWrite va 4 v).busBytes (s.memWrite va 4 v).advance.sample.deviceFetch s.npc 4 := rfl
  rw [decodeBytes, hbytes, hnpc, busBytes_memWrite (d := 0) hord (by omega) rfl, leWord_byteOf, ofNat_word]

/-- Settles O6: the next step fetches the word stored (`fetched_after_store`), at an address the program has stored to. -/
theorem storedWordIsTheNextInstruction : Obligations.StoredWordIsTheNextInstruction := by
  intro rt base offset s i va hva hord hnpc hdecode
  refine ⟨_, sw_of_ordinary hva hord, fun hint => ?_⟩
  have haligned : s.npc.toNat % 4 = 0 := by rw [hnpc]; exact hva
  have hbacked : s.backed s.npc 4 = true := by rw [hnpc]; exact backed_of_ordinary hord
  split
  case isTrue hcoherent =>
    have hsees : (s.memWrite va 4 (s.reg rt)).advance.fetchSees = true := by
      rw [State.fetchSees, State.advance_cfg, State.memWrite_cfg, hcoherent, Bool.true_or]
    obtain ⟨hstep, -⟩ := stepRunsTheDecodedInstruction _ i hint haligned hbacked hsees
      ((fetched_after_store hord hnpc _).trans hdecode)
    exact hstep
  case isFalse hcoherent =>
    have hstored : s.physAddr s.npc 0 ∈ (s.memWrite va 4 (s.reg rt)).advance.stored := by
      rw [hnpc]
      exact (s.mem_stored_memWrite va 4 (s.reg rt) _).mpr (.inr ⟨0, by omega, rfl⟩)
    have hfetched : s.physAddr s.npc 0 ∈ s.physAddrs s.npc 4 := (s.mem_physAddrs _ _ _).mpr ⟨0, by omega, rfl⟩
    obtain ⟨hfetch, -⟩ := accessOutsideMemoryStops
    obtain ⟨-, hrefused⟩ := hfetch _ _ hint haligned
    exact hrefused hbacked (Bool.eq_false_iff.mpr hcoherent) hstored hfetched

end Sys2Proof.Proofs
end

-- Proofs of 30_encoding.md: the encoder and the decoder agree, and the words that are none of the 61 instructions.
section

namespace Sys2Proof.Proofs

open Sys2Proof.Machine

variable {i : Instr} {w : Word}

/-! ### Encode, then decode -/

/-- Every instruction is read back from its word, format by format: R-Type, code, REGIMM, I-Type with a zero field, J-Type
and I-Type without one, COP0. -/
theorem decode_encode (i : Instr) : decode (encode i) = .instr i := by
  cases i with
  | add | addu | sub | subu | slt | sltu | div | divu | mult | multu | and | nor | or | xor | sllv | sll | srav | sra | srlv
  | srl | jr | jalr | mfhi | mflo | mthi | mtlo => simp [encode, decode, decodeSpecial, Decoded.checked]
  | brk | syscall => simp [encode, decode, decodeSpecial]
  | bgez | bltz | bgezal | bltzal => simp [encode, decode, decodeRegimm]
  | bgtz | blez | lui => simp [encode, decode, Decoded.checked]
  | addi | addiu | slti | sltiu | andi | ori | xori | beq | bne | j | jal | lb | lbu | lh | lhu | lw | lwl | lwr | sb | sh | sw
  | swl | swr => simp [encode, decode]
  | mfc0 | mtc0 => simp [encode, decode, decodeCop0, Decoded.checked]
  | eret => rfl

/-- Settles O1: the four bytes make the word again (`leWord_leBytes`), and the word decodes to its instruction. -/
theorem decodeEncodeAgree : Obligations.DecodeEncodeAgree := by
  intro i
  refine ⟨rfl, ?_⟩
  rw [encodeBytes, decodeBytes, leWord_leBytes, decode_encode]

/-- Settles O4: each word written out is the encoding of its instruction. -/
theorem writtenOutWordsDecode : Obligations.WrittenOutWordsDecode :=
  ⟨decode_encode (.add 3 1 2), decode_encode (.addi 2 1 0xFFFF), decode_encode (.lui 1 0xBFC0),
    decode_encode (.sra 3 2 4), decode_encode (.div 1 2), decode_encode (.bgezal 1 4), decode_encode (.j 0x3F00100),
    decode_encode (.swr 2 1 4), decode_encode (.brk 1), decode_encode (.mtc0 2 12 0), decode_encode .eret⟩

/-! ### Decode, then encode -/

/-- What an answer of the decoder says of the word: it is the instruction's encoding, or has all its one bits and more
(30_encoding.md R107, R109). -/
def Faithful (w : Word) : Decoded → Prop
  | .instr i => encode i = w
  | .reservedField i => encode i ≠ w ∧ encode i &&& w = encode i
  | .unimplemented => True

/-- Stage 2 of R107 is faithful where its test asks whether the word is the encoding. -/
theorem faithful_checked {zero : Bool} (hzero : zero = true ↔ encode i = w) (hbits : encode i &&& w = encode i) :
    Faithful w (.checked zero i) := by
  cases zero with
  | true => exact hzero.mp rfl
  | false => exact ⟨fun h => Bool.false_ne_true (hzero.mpr h), hbits⟩

/-- A word of known opcode and funct is an R-Type word exactly when its middle fields are. -/
theorem rType_eq_iff {op : BitVec 6} {a b c d : BitVec 5} {f : BitVec 6} (hop : fieldOp w = op) (hf : fieldFunct w = f) :
    rType op a b c d f = w ↔ fieldRs w = a ∧ fieldRt w = b ∧ fieldRd w = c ∧ fieldSa w = d := by
  constructor
  · rintro rfl
    simp
  · rintro ⟨rfl, rfl, rfl, rfl⟩
    rw [← hop, ← hf, rType_fields]

/-- The same for an I-Type word that keeps the immediate. -/
theorem iType_eq_iff {op : BitVec 6} {a b : BitVec 5} (hop : fieldOp w = op) :
    iType op a b (fieldImm w) = w ↔ fieldRs w = a ∧ fieldRt w = b := by
  constructor
  · intro h
    rw [← h]
    simp
  · rintro ⟨rfl, rfl⟩
    rw [← hop, iType_fields]

/-- An R-Type encoding whose fields are those of the word or zero, where the test asks for the zero ones. -/
theorem faithful_rType {zero : Bool} {op : BitVec 6} {a b c d : BitVec 5} {f : BitVec 6} (hop : fieldOp w = op)
    (hf : fieldFunct w = f) (henc : encode i = rType op a b c d f)
    (hzero : zero = true ↔ fieldRs w = a ∧ fieldRt w = b ∧ fieldRd w = c ∧ fieldSa w = d)
    (ha : a &&& fieldRs w = a) (hb : b &&& fieldRt w = b) (hc : c &&& fieldRd w = c) (hd : d &&& fieldSa w = d) :
    Faithful w (.checked zero i) := by
  apply faithful_checked
  · rw [henc, rType_eq_iff hop hf, hzero]
  · calc encode i &&& w
        = rType op a b c d f &&& rType op (fieldRs w) (fieldRt w) (fieldRd w) (fieldSa w) f := by
          rw [henc, ← hop, ← hf, rType_fields]
      _ = encode i := by rw [rType_and, ha, hb, hc, hd, BitVec.and_self, BitVec.and_self, henc]

/-- The same for an I-Type encoding. -/
theorem faithful_iType {zero : Bool} {op : BitVec 6} {a b : BitVec 5} (hop : fieldOp w = op)
    (henc : encode i = iType op a b (fieldImm w)) (hzero : zero = true ↔ fieldRs w = a ∧ fieldRt w = b)
    (ha : a &&& fieldRs w = a) (hb : b &&& fieldRt w = b) : Faithful w (.checked zero i) := by
  apply faithful_checked
  · rw [henc, iType_eq_iff hop, hzero]
  · calc encode i &&& w
        = iType op a b (fieldImm w) &&& iType op (fieldRs w) (fieldRt w) (fieldImm w) := by
          rw [henc, ← hop, iType_fields]
      _ = encode i := by rw [iType_and, ha, hb, BitVec.and_self, BitVec.and_self, henc]

/-- A word is made of the fields of MFC0 and MTC0, bits 10..3 as they stand. -/
theorem cp0_fields (w : Word) :
    (fieldOp w ++ fieldRs w ++ fieldRt w ++ fieldRd w ++ fieldCp0Zero w ++ fieldSel w : BitVec (6 + 5 + 5 + 5 + 8 + 3)) =
      w := by
  unfold fieldOp fieldRs fieldRt fieldRd fieldCp0Zero fieldSel
  rw [BitVec.extractLsb'_append_extractLsb'_eq_extractLsb' (show 26 = 21 + 5 from rfl),
    BitVec.extractLsb'_append_extractLsb'_eq_extractLsb' (show 21 = 16 + 5 from rfl),
    BitVec.extractLsb'_append_extractLsb'_eq_extractLsb' (show 16 = 11 + 5 from rfl),
    BitVec.extractLsb'_append_extractLsb'_eq_extractLsb' (show 11 = 3 + 8 from rfl),
    BitVec.extractLsb'_append_extractLsb'_eq_extractLsb' (show 3 = 0 + 3 from rfl)]
  exact BitVec.extractLsb'_eq_self

/-- MFC0 and MTC0, by bits 25..21. -/
theorem faithful_cp0Type {sub : BitVec 5} (hop : fieldOp w = 0b010000#6) (hsub : fieldRs w = sub)
    (henc : encode i = cp0Type sub (fieldRt w) (fieldRd w) (fieldSel w)) :
    Faithful w (.checked (fieldCp0Zero w == 0) i) := by
  subst hsub
  apply faithful_checked
  · rw [henc, beq_iff_eq]
    exact ⟨cp0Type_fields w hop, fun h => by rw [← h]; exact fieldCp0Zero_cp0Type ..⟩
  · calc encode i &&& w
        = cp0Type (fieldRs w) (fieldRt w) (fieldRd w) (fieldSel w) &&&
            (fieldOp w ++ fieldRs w ++ fieldRt w ++ fieldRd w ++ fieldCp0Zero w ++ fieldSel w :
              BitVec (6 + 5 + 5 + 5 + 8 + 3)) := by rw [henc, cp0_fields]
      _ = encode i := by
        rw [henc, cp0Type, hop, BitVec.and_append, BitVec.and_append, BitVec.and_append, BitVec.and_append,
          BitVec.and_append]
        simp only [BitVec.and_self, BitVec.zero_and]

/-- A word is made of the fields of ERET, bits 24..6 as they stand. -/
theorem eret_fields (w : Word) :
    (fieldOp w ++ BitVec.ofBool (fieldCo w) ++ fieldEretZero w ++ fieldFunct w : BitVec (6 + 1 + 19 + 6)) = w := by
  have hco : BitVec.ofBool (fieldCo w) = w.extractLsb' 25 1 := by
    apply BitVec.eq_of_getLsbD_eq
    simp [fieldCo]
  rw [hco]
  unfold fieldOp fieldEretZero fieldFunct
  rw [BitVec.extractLsb'_append_extractLsb'_eq_extractLsb' (show 26 = 25 + 1 from rfl),
    BitVec.extractLsb'_append_extractLsb'_eq_extractLsb' (show 25 = 6 + 19 from rfl),
    BitVec.extractLsb'_append_extractLsb'_eq_extractLsb' (show 6 = 0 + 6 from rfl)]
  exact BitVec.extractLsb'_eq_self

/-- ERET, by bit 25 and funct. -/
theorem faithful_eret (hop : fieldOp w = 0b010000#6) (hco : fieldCo w = true) (hf : fieldFunct w = 0b011000#6) :
    Faithful w (.checked (fieldEretZero w == 0) .eret) := by
  have hw := eret_fields w
  rw [hop, hco, hf] at hw
  apply faithful_checked
  · rw [beq_iff_eq]
    exact ⟨fun hz => by rw [hz] at hw; exact hw, fun h => by rw [← h]; rfl⟩
  · calc encode .eret &&& w
        = (0b010000#6 ++ 1#1 ++ 0#19 ++ 0b011000#6 : BitVec (6 + 1 + 19 + 6)) &&&
            (0b010000#6 ++ 1#1 ++ fieldEretZero w ++ 0b011000#6 : BitVec (6 + 1 + 19 + 6)) :=
          congrArg (encode .eret &&& ·) hw.symm
      _ = encode .eret := by
        simp only [BitVec.and_append, BitVec.and_self, BitVec.zero_and]
        rfl

theorem decodeSpecial_faithful (hop : fieldOp w = 0b000000#6) : Faithful w (decodeSpecial w) := by
  unfold decodeSpecial
  split
  -- SYSCALL and BREAK have no must-be-zero field
  case h_9 hf | h_10 hf => exact (congrArg (codeType (fieldCode w)) hf.symm).trans (codeType_fields w hop)
  case h_29 => trivial
  all_goals
    next hf => exact faithful_rType hop hf rfl (by simp [and_assoc]) (by simp) (by simp) (by simp) (by simp)

theorem decodeRegimm_faithful (hop : fieldOp w = 0b000001#6) : Faithful w (decodeRegimm w) := by
  unfold decodeRegimm
  split
  case h_5 => trivial
  all_goals
    next hrt => exact (iType_eq_iff hop).mpr ⟨rfl, hrt⟩

theorem decodeCop0_faithful (hop : fieldOp w = 0b010000#6) : Faithful w (decodeCop0 w) := by
  unfold decodeCop0
  split_ifs with hmfc0 hmtc0 heret
  · exact faithful_cp0Type hop (eq_of_beq hmfc0) rfl
  · exact faithful_cp0Type hop (eq_of_beq hmtc0) rfl
  · obtain ⟨hco, hf⟩ := Bool.and_eq_true_iff.mp heret
    exact faithful_eret hop hco (eq_of_beq hf)
  · trivial

theorem decode_faithful (w : Word) : Faithful w (decode w) := by
  unfold decode
  split
  case h_1 hop => exact decodeSpecial_faithful hop
  case h_2 hop => exact decodeRegimm_faithful hop
  case h_17 hop => exact decodeCop0_faithful hop
  -- J and JAL
  case h_3 hop | h_4 hop => exact (congrArg (jType · (fieldIndex w)) hop.symm).trans (jType_fields w)
  -- BLEZ, BGTZ and LUI, the I-Type words with a must-be-zero field
  case h_7 hop | h_8 hop | h_16 hop => exact faithful_iType hop rfl (by simp) (by simp) (by simp)
  case h_30 => trivial
  all_goals
    next hop => exact (iType_eq_iff hop).mpr ⟨rfl, rfl⟩

/-- Settles O2: both clauses are what `Faithful` says of the decoder's answer. -/
theorem decodedWordIsTheEncoding : Obligations.DecodedWordIsTheEncoding := by
  intro w i
  have h := decode_faithful w
  exact ⟨fun hd => by rwa [hd] at h, fun hd => by rwa [hd] at h⟩

/-! ### The words that are none of the 61 instructions -/

theorem fieldOp_toNat (w : Word) : (fieldOp w).toNat = w.toNat / 2 ^ 26 := by
  rw [fieldOp, BitVec.extractLsb'_toNat, Nat.shiftRight_eq_div_pow]
  omega

theorem fieldRs_toNat (w : Word) : (fieldRs w).toNat = w.toNat / 2 ^ 21 % 32 := by
  rw [fieldRs, BitVec.extractLsb'_toNat, Nat.shiftRight_eq_div_pow]

theorem fieldRt_toNat (w : Word) : (fieldRt w).toNat = w.toNat / 2 ^ 16 % 32 := by
  rw [fieldRt, BitVec.extractLsb'_toNat, Nat.shiftRight_eq_div_pow]

theorem fieldFunct_toNat (w : Word) : (fieldFunct w).toNat = w.toNat % 64 := by
  rw [fieldFunct, BitVec.extractLsb'_toNat, Nat.shiftRight_zero]

/-- Bit 25 is the top bit of bits 25..21. -/
theorem fieldCo_iff (w : Word) : fieldCo w = true ↔ 16 ≤ (fieldRs w).toNat := by
  rw [fieldCo, BitVec.getLsbD, Nat.testBit_eq_decide_div_mod_eq, decide_eq_true_iff, fieldRs_toNat]
  omega

/-- A word with an instruction's identity is implemented, whatever its must-be-zero fields hold. -/
@[simp] theorem checked_ne_unimplemented (zero : Bool) (i : Instr) : Decoded.checked zero i ≠ .unimplemented := by
  cases zero <;> nofun

/-- The table of R104. -/
theorem decodeSpecial_unimplemented (w : Word) : decodeSpecial w = .unimplemented ↔ (fieldFunct w).toNat ∉
    [0, 2, 3, 4, 6, 7, 8, 9, 12, 13, 16, 17, 18, 19, 24, 25, 26, 27, 32, 33, 34, 35, 36, 37, 38, 39, 42, 43] := by
  unfold decodeSpecial
  split
  case h_29 =>
    simp only [imp_false, ← BitVec.toNat_inj, BitVec.toNat_ofNat, Nat.reducePow, Nat.reduceMod] at *
    simp [*]
  all_goals
    next hf => simp [hf]

/-- The table of R105. -/
theorem decodeRegimm_unimplemented (w : Word) :
    decodeRegimm w = .unimplemented ↔ (fieldRt w).toNat ∉ [0, 1, 16, 17] := by
  unfold decodeRegimm
  split
  case h_5 =>
    simp only [imp_false, ← BitVec.toNat_inj, BitVec.toNat_ofNat, Nat.reducePow, Nat.reduceMod] at *
    simp [*]
  all_goals
    next hrt => simp [hrt]

/-- The three identities of R106. -/
theorem decodeCop0_unimplemented (w : Word) : decodeCop0 w = .unimplemented ↔
    (fieldRs w).toNat ≠ 0 ∧ (fieldRs w).toNat ≠ 4 ∧ ¬ (16 ≤ (fieldRs w).toNat ∧ (fieldFunct w).toNat = 24) := by
  unfold decodeCop0
  rw [← fieldCo_iff]
  split_ifs <;> simp_all [← BitVec.toNat_inj]

/-- Settles O3, opcode by opcode: SPECIAL, REGIMM and COP0 by their own tables. -/
theorem unimplementedWords : Obligations.UnimplementedWords := by
  intro w
  simp only [← fieldOp_toNat, ← fieldRs_toNat, ← fieldRt_toNat, ← fieldFunct_toNat]
  rw [← decodeSpecial_unimplemented, ← decodeRegimm_unimplemented, ← decodeCop0_unimplemented]
  unfold decode
  split
  case h_30 =>
    simp only [imp_false, ← BitVec.toNat_inj, BitVec.toNat_ofNat, Nat.reducePow, Nat.reduceMod] at *
    simp [*]
  all_goals
    next hop => simp [hop]

end Sys2Proof.Proofs
end

-- Proofs of 30_encoding.md: the jumps, and the step at a word with a non-zero must-be-zero field.
section

namespace Sys2Proof.Proofs

open Sys2Proof.Machine

variable {s : State}

/-! ### Jumps -/

/-- The region of the delay slot and the index, as a number (44_branch_jump.md R175). -/
theorem jumpTarget_eq (pc : Word) (index : BitVec 26) :
    jumpTarget pc index = BitVec.ofNat 32 ((pc + 4).toNat / 2 ^ 28 * 2 ^ 28 + index.toNat * 4) := by
  apply BitVec.eq_of_toNat_eq
  rw [jumpTarget, BitVec.toNat_append, BitVec.toNat_append, BitVec.extractLsb'_toNat,
    ← Nat.shiftLeft_add_eq_or_of_lt index.isLt, Nat.shiftRight_eq_div_pow, BitVec.toNat_ofNat]
  simp only [Nat.shiftLeft_eq, BitVec.toNat_ofNat, Nat.zero_mod, Nat.or_zero]
  omega

/-- Outside a delay slot a jump completes. -/
theorem transfer_branched (hds : s.ds = false) (target : Word) :
    ∃ t, s.transfer true target = .next t ∧ s.Branched t target :=
  ⟨_, (State.transfer_next ..).mpr ⟨hds, rfl⟩, s.branched_branchTo true target⟩

/-- Outside a delay slot a linking jump completes. -/
theorem transferLink_linked (hds : s.ds = false) (r : RegNum) (target : Word) :
    ∃ t, s.transferLink r true target = .next t ∧ s.Linked t r target :=
  ⟨_, (State.transferLink_next ..).mpr ⟨hds, rfl⟩, s.linked_branchTo r true target⟩

/-- Settles O41: each jump is a transfer that is taken, the register's target read before the link is written. -/
theorem jumps : Obligations.Jumps := by
  intro s hds
  refine ⟨fun index => ?_, fun rd rs => ?_⟩
  · rw [← jumpTarget_eq]
    exact ⟨transfer_branched hds _, transferLink_linked hds 31 _⟩
  · exact ⟨transfer_branched hds _, transferLink_linked hds rd _⟩

/-! ### A word with a non-zero must-be-zero field -/

/-- Exception entry in the words of Safety.lean (60_exceptions.md R240 to R243). -/
theorem entersException_enterException (s : State) (c : ExcCode) (bad : Option Word) :
    s.EntersException (s.enterException c bad) c.code bad where
  excCode := rfl
  level := rfl
  vector := ⟨rfl, rfl, rfl⟩
  saved := fun hexl hds => by simp [hexl, hds]
  savedInSlot := fun hexl hds => by simp [hexl, hds]
  kept := fun hexl => by simp [hexl]
  badVAddr := rfl
  status := ⟨rfl, rfl⟩
  cause := ⟨rfl, rfl⟩
  timer := ⟨rfl, rfl⟩
  regs := fun _ => rfl
  hiLo := ⟨rfl, rfl⟩
  memory := fun _ => rfl
  bus := ⟨rfl, rfl⟩
  sampled := ⟨rfl, rfl, rfl, rfl, rfl, rfl, rfl⟩
  held := fun _ => rfl

/-- A step that takes no interrupt and whose fetch succeeds runs what the fetched bytes decode to. -/
theorem step_eq_runDecoded (hint : s.sample.interruptTaken s.input.holdOff = false) (hpc : s.pc.toNat % 4 = 0)
    (hbacked : s.backed s.pc 4 = true) (hsees : s.fetchSees = true) :
    step s = s.atExecute.runDecoded (decodeBytes s.sample.fetchBytes) :=
  calc step s = s.sample.noteHeld.withAccess s.pc 4 s.sample.noteHeld.fetchRun := step_eq_fetch hint hpc
    _ = s.sample.noteHeld.fetchRun := State.withAccess_of_backed _ _ _ _ hbacked
    _ = s.atExecute.runDecoded (decodeBytes s.sample.fetchBytes) := by simp [State.fetchRun, hsees, State.atExecute]

/-- Settles O8, policy by policy: sampling and the fetch leave the policy as it is (`atExecute_cfg`). -/
theorem reservedFieldPolicies : Obligations.ReservedFieldPolicies := by
  intro s i hint hpc hbacked hsees hdecode
  rw [step_eq_runDecoded hint hpc hbacked hsees, hdecode, ← atExecute_cfg s]
  refine ⟨fun hrefuse => ?refuse, fun hri => ?ri, fun hignore => ?ignore⟩
  case refuse => simp only [State.runDecoded, hrefuse]
  case ri =>
    refine ⟨_, ?_, entersException_enterException s.atExecute .ri none⟩
    simp only [State.runDecoded, hri, State.raise]
  case ignore => simp only [State.runDecoded, hignore]

end Sys2Proof.Proofs
end

-- Proofs of 41_arithmetic.md: the exact results of the arithmetic instructions, by the integers the words stand for.
section

namespace Sys2Proof.Proofs

open Sys2Proof.Machine

variable {s : State} {a b : Word}

/-! ### How an arithmetic instruction ends -/

/-- An instruction that ends by writing a word, said of every spelling of that word. -/
theorem doneReg_wroteReg {v w : Word} (s : State) (r : RegNum) (h : v = w) :
    ∃ t, s.doneReg r v = .next t ∧ s.WroteReg t r w :=
  ⟨_, (State.doneReg_next ..).mpr rfl, h ▸ s.wroteReg_advance r v⟩

theorem done_wroteHiLo (s : State) (v : Config.HiLo) : ∃ t, (s.setHiLo v).done = .next t ∧ s.WroteHiLo t v.hi v.lo :=
  ⟨_, (State.done_next ..).mpr rfl, s.wroteHiLo_advance v⟩

/-- The same with HI and LO named by the next state. -/
theorem done_wroteHiLo_self (s : State) (v : Config.HiLo) :
    ∃ t, (s.setHiLo v).done = .next t ∧ s.WroteHiLo t t.hi t.lo ∧ t.hi = v.hi ∧ t.lo = v.lo :=
  ⟨_, (State.done_next ..).mpr rfl, s.wroteHiLo_advance v, rfl, rfl⟩

/-! ### The 33-bit results and the overflow test (R121, R125, R136) -/

/-- The two top bits agree exactly where the 33-bit value fits in 32 bits. -/
theorem overflows_eq_false_iff (x : BitVec 33) : overflows x = false ↔ -2 ^ 31 ≤ x.toInt ∧ x.toInt < 2 ^ 31 := by
  have hx := x.isLt
  rw [overflows, bne_eq_false_iff_eq, BitVec.getLsbD, BitVec.getLsbD, Nat.testBit_eq_decide_div_mod_eq,
    Nat.testBit_eq_decide_div_mod_eq, decide_eq_decide, BitVec.toInt_eq_toNat_cond]
  split <;> omega

theorem toInt_sum33 (a b : Word) : (sum33 a b).toInt = a.toInt + b.toInt := by
  have ha := a.le_toInt
  have ha' := a.toInt_lt
  have hb := b.le_toInt
  have hb' := b.toInt_lt
  rw [sum33, BitVec.toInt_add, BitVec.toInt_signExtend_of_le (by decide), BitVec.toInt_signExtend_of_le (by decide)]
  apply Int.bmod_eq_of_le <;> omega

theorem toInt_diff33 (a b : Word) : (diff33 a b).toInt = a.toInt - b.toInt := by
  have ha := a.le_toInt
  have ha' := a.toInt_lt
  have hb := b.le_toInt
  have hb' := b.toInt_lt
  rw [diff33, BitVec.toInt_sub, BitVec.toInt_signExtend_of_le (by decide), BitVec.toInt_signExtend_of_le (by decide)]
  apply Int.bmod_eq_of_le <;> omega

/-- A 33-bit result that fits is written, cut to its low 32 bits. -/
theorem doneUnlessOverflow_of_fits {x : BitVec 33} (r : RegNum) (hlow : -2 ^ 31 ≤ x.toInt) (hhigh : x.toInt < 2 ^ 31) :
    ∃ t, s.doneUnlessOverflow r x = .next t ∧ s.WroteReg t r (BitVec.ofInt 32 x.toInt) := by
  have hcut : x.setWidth 32 = BitVec.ofInt 32 x.toInt := (x.signExtend_eq_setWidth_of_le (by decide)).symm
  refine ⟨_, (State.doneUnlessOverflow_next ..).mpr (.inr ⟨(overflows_eq_false_iff x).mpr ⟨hlow, hhigh⟩, rfl⟩), ?_⟩
  exact hcut ▸ s.wroteReg_advance r _

/-- The sign-extended immediate has the immediate's value (30_encoding.md R96). -/
theorem toInt_signExtImm (imm : BitVec 16) : (signExtImm imm).toInt = imm.toInt :=
  BitVec.toInt_signExtend_of_le (by decide)

/-- Settles O28: the 33-bit result is the exact one, and the overflow test asks whether it fits. -/
theorem checkedArithmeticInRange : Obligations.CheckedArithmeticInRange := by
  refine fun s => ⟨fun rd rs rt => ?add, fun rt rs imm => ?addi, fun rd rs rt => ?sub⟩
  case add => rw [← toInt_sum33]; exact doneUnlessOverflow_of_fits rd
  case addi => rw [← toInt_signExtImm, ← toInt_sum33]; exact doneUnlessOverflow_of_fits rt
  case sub => rw [← toInt_diff33]; exact doneUnlessOverflow_of_fits rd

/-! ### Results modulo 2^32 (R123, R124, R126) -/

theorem add_eq_ofNat (a b : Word) : a + b = BitVec.ofNat 32 (a.toNat + b.toNat) := by
  rw [BitVec.ofNat_add, BitVec.ofNat_toNat, BitVec.ofNat_toNat, BitVec.setWidth_eq, BitVec.setWidth_eq]

theorem add_signExtImm_eq_ofInt (a : Word) (imm : BitVec 16) :
    a + signExtImm imm = BitVec.ofInt 32 (a.toNat + imm.toInt) := by
  rw [BitVec.ofInt_add, BitVec.ofInt_natCast, BitVec.ofNat_toNat, BitVec.setWidth_eq]
  rfl

theorem sub_eq_ofInt (a b : Word) : a - b = BitVec.ofInt 32 (a.toNat - b.toNat : Int) := by
  rw [Int.sub_eq_add_neg, BitVec.ofInt_add, BitVec.ofInt_neg, BitVec.ofInt_natCast, BitVec.ofInt_natCast,
    BitVec.ofNat_toNat, BitVec.ofNat_toNat, BitVec.setWidth_eq, BitVec.setWidth_eq, BitVec.sub_eq_add_neg]

/-- Settles O30: each word is the encoding of its instruction (`decode_encode`), and each result is taken modulo 2^32. -/
theorem wrappingArithmetic : Obligations.WrappingArithmetic :=
  ⟨fun rd rs rt s => ⟨decode_encode (.addu rd rs rt), doneReg_wroteReg s rd (add_eq_ofNat ..)⟩,
    fun rt rs imm s => ⟨decode_encode (.addiu rt rs imm), doneReg_wroteReg s rt (add_signExtImm_eq_ofInt ..)⟩,
    fun rd rs rt s => ⟨decode_encode (.subu rd rs rt), doneReg_wroteReg s rd (sub_eq_ofInt ..)⟩⟩

/-! ### Comparisons (R127 to R130, R138) -/

theorem boolWord_decide {p q : Prop} [Decidable p] [Decidable q] (h : p ↔ q) :
    boolWord (decide p) = if q then 0x00000001#32 else 0x00000000#32 := by
  by_cases hp : p <;> simp [boolWord, hp, ← h]

/-- The unsigned value of the sign-extended immediate (R130). -/
theorem toNat_signExtImm (imm : BitVec 16) : ((signExtImm imm).toNat : Int) = imm.toInt % 2 ^ 32 := by
  have hlt := (signExtImm imm).isLt
  rw [← toInt_signExtImm, BitVec.toInt_eq_toNat_cond]
  split <;> omega

/-- Settles O31: the comparison is of the values, the immediate's being `toInt_signExtImm` and `toNat_signExtImm`. -/
theorem setOnLessThan : Obligations.SetOnLessThan := by
  refine fun s => ⟨fun rd rs rt => ?slt, fun rt rs imm => ?slti, fun rd rs rt => ?sltu, fun rt rs imm => ?sltiu⟩
  case slt => exact doneReg_wroteReg s rd (boolWord_decide .rfl)
  case slti => exact doneReg_wroteReg s rt (boolWord_decide (by rw [toInt_signExtImm]))
  case sltu => exact doneReg_wroteReg s rd (boolWord_decide .rfl)
  case sltiu => exact doneReg_wroteReg s rt (boolWord_decide (by rw [← toNat_signExtImm, Int.ofNat_lt]))

/-! ### Products (R134, R135) -/

/-- HI and LO hold the whole of the product. -/
theorem hiLoOf_append (p : BitVec 64) : (hiLoOf p).hi ++ (hiLoOf p).lo = p :=
  (BitVec.extractLsb'_append_extractLsb'_eq_extractLsb' rfl).trans BitVec.extractLsb'_eq_self

/-- 64 bits hold every product of two signed words. -/
theorem toInt_productSigned (a b : Word) : (productSigned a b).toInt = a.toInt * b.toInt := by
  have hlow : -2 ^ 62 ≤ a.toInt * b.toInt := BitVec.le_toInt_mul_toInt
  have hhigh : a.toInt * b.toInt ≤ 2 ^ 62 := BitVec.toInt_mul_toInt_le
  exact BitVec.toInt_ofInt_eq_self (by decide) (by omega) (by omega)

/-- 64 bits hold every product of two unsigned words. -/
theorem toNat_productUnsigned (a b : Word) : (productUnsigned a b).toNat = a.toNat * b.toNat :=
  (BitVec.toNat_ofNat ..).trans (Nat.mod_eq_of_lt BitVec.toNat_mul_toNat_lt)

/-- Settles O32: HI and LO joined are the 64-bit product (`hiLoOf_append`), which is exact. -/
theorem multiplication : Obligations.Multiplication := by
  refine fun rs rt s => ⟨⟨decode_encode (.mult rs rt), ?mult⟩, ⟨decode_encode (.multu rs rt), ?multu⟩⟩
  case mult =>
    obtain ⟨t, hnext, hwrote, hhi, hlo⟩ := done_wroteHiLo_self s (hiLoOf (productSigned (s.reg rs) (s.reg rt)))
    exact ⟨t, hnext, hwrote, by rw [hhi, hlo, hiLoOf_append, toInt_productSigned]⟩
  case multu =>
    obtain ⟨t, hnext, hwrote, hhi, hlo⟩ := done_wroteHiLo_self s (hiLoOf (productUnsigned (s.reg rs) (s.reg rt)))
    exact ⟨t, hnext, hwrote, by rw [hhi, hlo, hiLoOf_append, toNat_productUnsigned]⟩

/-! ### Quotients and remainders (R131 to R133, R137) -/

theorem quotientSigned_corner (h : b = 0#32 ∨ (a = 0x80000000#32 ∧ b = 0xFFFFFFFF#32)) :
    quotientSigned a b = Config.divCorner .div a b :=
  if_pos h

theorem quotientUnsigned_corner (h : b = 0#32) : quotientUnsigned a b = Config.divCorner .divu a b :=
  if_pos h

theorem quotientSigned_eq (hzero : b ≠ 0#32) (hcorner : ¬ (a = 0x80000000#32 ∧ b = 0xFFFFFFFF#32)) :
    quotientSigned a b = { hi := BitVec.ofInt 32 (a.toInt.tmod b.toInt), lo := BitVec.ofInt 32 (a.toInt.tdiv b.toInt) } :=
  if_neg (not_or.mpr ⟨hzero, hcorner⟩)

/-- Outside the corners the truncated quotient fits in a word, as its remainder does. -/
theorem quotientSigned_toInt (hzero : b ≠ 0#32) (hcorner : ¬ (a = 0x80000000#32 ∧ b = 0xFFFFFFFF#32)) :
    (quotientSigned a b).lo.toInt = a.toInt.tdiv b.toInt ∧ (quotientSigned a b).hi.toInt = a.toInt.tmod b.toInt := by
  have hquot : (a.sdiv b).toInt = a.toInt.tdiv b.toInt := BitVec.toInt_sdiv_of_ne_or_ne a b (not_and_or.mp hcorner)
  have hrem : (a.srem b).toInt = a.toInt.tmod b.toInt := BitVec.toInt_srem a b
  rw [quotientSigned_eq hzero hcorner, ← hquot, ← hrem, BitVec.ofInt_toInt, BitVec.ofInt_toInt]
  exact ⟨rfl, rfl⟩

theorem quotientUnsigned_eq (hzero : b ≠ 0#32) :
    quotientUnsigned a b = { hi := BitVec.ofNat 32 (a.toNat % b.toNat), lo := BitVec.ofNat 32 (a.toNat / b.toNat) } :=
  if_neg hzero

theorem quotientUnsigned_toNat (hzero : b ≠ 0#32) :
    (quotientUnsigned a b).lo.toNat = a.toNat / b.toNat ∧ (quotientUnsigned a b).hi.toNat = a.toNat % b.toNat := by
  rw [quotientUnsigned_eq hzero, ← BitVec.udiv_def, ← BitVec.umod_def]
  exact ⟨BitVec.toNat_udiv, BitVec.toNat_umod⟩

/-- The remainder of a truncated division has the dividend's sign. -/
theorem tmod_sign (m n : Int) : (0 ≤ m → 0 ≤ m.tmod n) ∧ (m ≤ 0 → m.tmod n ≤ 0) := by
  refine ⟨Int.tmod_nonneg n, fun hm => ?_⟩
  have hneg : 0 ≤ (-m).tmod n := Int.tmod_nonneg n (Int.neg_nonneg.mpr hm)
  rw [Int.neg_tmod] at hneg
  exact Int.neg_nonneg.mp hneg

/-- Settles O33, by the truncated division of the integers and the division of the naturals. -/
theorem division : Obligations.Division := by
  refine fun rs rt s hzero => ⟨fun hcorner => ?div, ?divu⟩
  case div =>
    obtain ⟨t, hnext, hwrote, hhi, hlo⟩ := done_wroteHiLo_self s (quotientSigned (s.reg rs) (s.reg rt))
    obtain ⟨hquot, hrem⟩ := quotientSigned_toInt hzero hcorner
    have hdivisor : 0 < (s.reg rt).toInt.natAbs := Int.natAbs_pos.mpr (BitVec.toInt_ne.mpr hzero)
    refine ⟨t, hnext, hwrote, ?_⟩
    rw [hhi, hlo, hquot, hrem, Int.natAbs_tmod]
    exact ⟨(Int.tdiv_mul_add_tmod ..).symm, Nat.mod_lt _ hdivisor, tmod_sign ..⟩
  case divu =>
    obtain ⟨t, hnext, hwrote, hhi, hlo⟩ := done_wroteHiLo_self s (quotientUnsigned (s.reg rs) (s.reg rt))
    obtain ⟨hquot, hrem⟩ := quotientUnsigned_toNat (a := s.reg rs) hzero
    have hdivisor : 0 < (s.reg rt).toNat := Nat.pos_of_ne_zero (BitVec.toNat_ne.mp hzero)
    refine ⟨t, hnext, hwrote, ?_⟩
    rw [hhi, hlo, hquot, hrem]
    exact ⟨(Nat.div_add_mod' ..).symm, Nat.mod_lt _ hdivisor⟩

/-- Settles O34: in a corner HI and LO are the free value of the operands. -/
theorem divisionCorners : Obligations.DivisionCorners := by
  refine fun rs rt s => ⟨fun hcorner => ?div, fun hzero => ?divu⟩
  case div => rw [← quotientSigned_corner hcorner]; exact done_wroteHiLo s _
  case divu => rw [← quotientUnsigned_corner hzero]; exact done_wroteHiLo s _

end Sys2Proof.Proofs
end

-- Proofs of 42_logic.md: each bit of the result of a logical instruction.
section

namespace Sys2Proof.Proofs

open Sys2Proof.Machine

/-! ### Results said bit by bit -/

/-- An instruction that ends by writing a word, said by a property of that word. -/
theorem doneReg_wroteReg_of {P : Word → Prop} {v : Word} (s : State) (r : RegNum) (h : P v) :
    ∃ t w, s.doneReg r v = .next t ∧ s.WroteReg t r w ∧ P w :=
  have ⟨t, hnext, hwrote⟩ := doneReg_wroteReg s r rfl
  ⟨t, v, hnext, hwrote, h⟩

/-- The zero-extended immediate has the immediate's bits in its low half and zeros above (30_encoding.md R97). -/
theorem getLsbD_zeroExtImm (imm : BitVec 16) (n : Nat) :
    (zeroExtImm imm).getLsbD n = (decide (n < 16) && imm.getLsbD n) := by
  rw [zeroExtImm, BitVec.getLsbD_setWidth]
  by_cases hn : n < 16
  · rw [decide_eq_true (hn.trans (by decide)), decide_eq_true hn]
  · rw [BitVec.getLsbD_of_ge imm n (Nat.le_of_not_lt hn), Bool.and_false, Bool.and_false]

/-- The LUI immediate is the immediate times 2^16 (30_encoding.md R98). -/
theorem toNat_upperImm (imm : BitVec 16) : (upperImm imm).toNat = imm.toNat * 2 ^ 16 := by
  rw [upperImm, BitVec.toNat_append, BitVec.toNat_ofNat, Nat.zero_mod, Nat.or_zero, Nat.shiftLeft_eq]

/-- Settles O35: each word is the encoding of its instruction (`decode_encode`), and the result is read bit by bit, the
immediate's bits by `getLsbD_zeroExtImm`; LUI's by its value. -/
theorem logicalOperations : Obligations.LogicalOperations := by
  refine ⟨fun rd rs rt s => ⟨⟨decode_encode (.and rd rs rt), ?and⟩, ⟨decode_encode (.or rd rs rt), ?or⟩,
    ⟨decode_encode (.xor rd rs rt), ?xor⟩, ⟨decode_encode (.nor rd rs rt), ?nor⟩⟩,
    fun rt rs imm s => ⟨⟨decode_encode (.andi rt rs imm), ?andi⟩, ⟨decode_encode (.ori rt rs imm), ?ori⟩,
    ⟨decode_encode (.lui rt imm), ?lui⟩⟩⟩
  case and => exact doneReg_wroteReg_of s rd fun _ _ => BitVec.getLsbD_and
  case or => exact doneReg_wroteReg_of s rd fun _ _ => BitVec.getLsbD_or
  case xor => exact doneReg_wroteReg_of s rd fun _ _ => BitVec.getLsbD_xor
  case nor =>
    exact doneReg_wroteReg_of s rd fun n hn => by
      rw [BitVec.getLsbD_not, BitVec.getLsbD_or, Bool.not_or, decide_eq_true hn, Bool.true_and]
  case andi =>
    exact doneReg_wroteReg_of s rt fun n _ => by
      rw [BitVec.getLsbD_and, getLsbD_zeroExtImm, Bool.and_left_comm, Bool.and_assoc]
  case ori => exact doneReg_wroteReg_of s rt fun n _ => by rw [BitVec.getLsbD_or, getLsbD_zeroExtImm]
  case lui => exact doneReg_wroteReg_of s rt (toNat_upperImm imm)

/-- Settles O36: the exclusive or bit by bit, the immediate's bits by `getLsbD_zeroExtImm`. -/
theorem exclusiveOrImmediate : Obligations.ExclusiveOrImmediate := fun rt _ imm s =>
  doneReg_wroteReg_of s rt fun n _ => by rw [BitVec.getLsbD_xor, getLsbD_zeroExtImm]

end Sys2Proof.Proofs
end

-- Proofs of 43_shift.md: the six shifts as arithmetic on the value.
section

namespace Sys2Proof.Proofs

open Sys2Proof.Machine

/-! ### The shift amount and the three shifts as arithmetic -/

/-- The variable shift amount is the register's value modulo 32 (30_encoding.md R101). -/
theorem toNat_shiftAmount (v : Word) : (shiftAmount v).toNat = v.toNat % 32 := by
  rw [shiftAmount, BitVec.extractLsb'_toNat, Nat.shiftRight_zero]

theorem toNat_shiftLeft (v : Word) (n : BitVec 5) : (shiftLeft v n).toNat = v.toNat * 2 ^ n.toNat % 2 ^ 32 := by
  rw [shiftLeft, BitVec.toNat_shiftLeft, Nat.shiftLeft_eq]

theorem toNat_shiftRight (v : Word) (n : BitVec 5) : (shiftRight v n).toNat = v.toNat / 2 ^ n.toNat := by
  rw [shiftRight, BitVec.toNat_ushiftRight, Nat.shiftRight_eq_div_pow]

/-- Copying the sign bit rounds toward minus infinity, as the division of integers by a positive one does (R152). -/
theorem toInt_shiftRightArith (v : Word) (n : BitVec 5) : (shiftRightArith v n).toInt = v.toInt / 2 ^ n.toNat := by
  rw [shiftRightArith, BitVec.toInt_sshiftRight, Int.shiftRight_eq_div_pow, Nat.cast_pow, Nat.cast_ofNat]

/-- Settles O37: the sa forms are the arithmetic of the three shifts, and the register forms are the same with the amount
of `toNat_shiftAmount`. -/
theorem shifts : Obligations.Shifts := by
  refine fun rd rt rs sa s => ⟨?sll, ?srl, ?sra, ?sllv, ?srlv, ?srav⟩
  case sll => exact doneReg_wroteReg_of s rd (toNat_shiftLeft (s.reg rt) sa)
  case srl => exact doneReg_wroteReg_of s rd (toNat_shiftRight (s.reg rt) sa)
  case sra => exact doneReg_wroteReg_of s rd (toInt_shiftRightArith (s.reg rt) sa)
  all_goals rw [← toNat_shiftAmount]
  case sllv => exact doneReg_wroteReg_of s rd (toNat_shiftLeft (s.reg rt) (shiftAmount (s.reg rs)))
  case srlv => exact doneReg_wroteReg_of s rd (toNat_shiftRight (s.reg rt) (shiftAmount (s.reg rs)))
  case srav => exact doneReg_wroteReg_of s rd (toInt_shiftRightArith (s.reg rt) (shiftAmount (s.reg rs)))

end Sys2Proof.Proofs
end

-- Proofs of 44_branch_jump.md: the branches outside a delay slot, and the transfers refused in one.
section

namespace Sys2Proof.Proofs

open Sys2Proof.Machine

variable {s : State}

/-! ### The branch target and the conditions -/

/-- The branch offset counts words (44_branch_jump.md R161). -/
theorem branchOffset_eq_ofInt (offset : BitVec 16) : branchOffset offset = BitVec.ofInt 32 (4 * offset.toInt) := by
  have hvalue : (offset ++ 0#2).toInt = 4 * offset.toInt := by
    rw [BitVec.toInt_append, if_neg (by decide), BitVec.toNat_ofNat, Nat.zero_mod, Int.natCast_zero, Int.add_zero]
    rfl
  rw [branchOffset, BitVec.signExtend, hvalue]

theorem branchTarget_eq (pc : Word) (offset : BitVec 16) :
    branchTarget pc offset = pc + 4 + BitVec.ofInt 32 (4 * offset.toInt) := by
  rw [branchTarget, branchOffset_eq_ofInt]

theorem isGez_iff (v : Word) : isGez v = true ↔ 0 ≤ v.toInt := decide_eq_true_iff

theorem isGtz_iff (v : Word) : isGtz v = true ↔ 0 < v.toInt := decide_eq_true_iff

theorem isLez_iff (v : Word) : isLez v = true ↔ v.toInt ≤ 0 := decide_eq_true_iff

theorem isLtz_iff (v : Word) : isLtz v = true ↔ v.toInt < 0 := decide_eq_true_iff

/-! ### Outside a delay slot -/

/-- Outside a delay slot a branch completes, taken where its condition holds. -/
theorem transfer_branched_of_iff {taken : Bool} {p : Prop} [Decidable p] (hds : s.ds = false) (h : taken = true ↔ p)
    (target : Word) :
    ∃ t, s.transfer taken target = .next t ∧ s.Branched t (if p then target else s.npc + 4) := by
  refine ⟨_, (State.transfer_next ..).mpr ⟨hds, rfl⟩, ?_⟩
  rw [← if_congr h rfl rfl]
  exact s.branched_branchTo taken target

/-- Outside a delay slot a linking branch completes, taken where its condition holds. -/
theorem transferLink_linked_of_iff {taken : Bool} {p : Prop} [Decidable p] (hds : s.ds = false) (r : RegNum)
    (h : taken = true ↔ p) (target : Word) :
    ∃ t, s.transferLink r taken target = .next t ∧ s.Linked t r (if p then target else s.npc + 4) := by
  refine ⟨_, (State.transferLink_next ..).mpr ⟨hds, rfl⟩, ?_⟩
  rw [← if_congr h rfl rfl]
  exact s.linked_branchTo r taken target

/-- Settles O39: each branch is a transfer, its target `branchTarget_eq`, taken where its condition holds. -/
theorem conditionalBranches : Obligations.ConditionalBranches := by
  intro rs rt offset s hds target
  have htarget : branchTarget s.pc offset = target := branchTarget_eq s.pc offset
  rw [← htarget]
  refine ⟨?beq, ?bne, ?bgez, ?bgtz, ?blez, ?bltz⟩
  case beq => exact transfer_branched_of_iff hds beq_iff_eq _
  case bne => rw [← ite_not]; exact transfer_branched_of_iff hds bne_iff_ne _
  case bgez => exact transfer_branched_of_iff hds (isGez_iff _) _
  case bgtz => exact transfer_branched_of_iff hds (isGtz_iff _) _
  case blez => exact transfer_branched_of_iff hds (isLez_iff _) _
  case bltz => exact transfer_branched_of_iff hds (isLtz_iff _) _

/-- Settles O40: the linking branches are the same with r31 written; the condition is of the state before. -/
theorem linkingBranches : Obligations.LinkingBranches := by
  intro rs offset s hds target
  have htarget : branchTarget s.pc offset = target := branchTarget_eq s.pc offset
  rw [← htarget]
  refine ⟨?bgezal, ?bltzal⟩
  case bgezal => exact transferLink_linked_of_iff hds 31 (isGez_iff _) _
  case bltzal => exact transferLink_linked_of_iff hds 31 (isLtz_iff _) _

/-! ### In a delay slot (R164) -/

theorem transfer_refused (hds : s.ds = true) (taken : Bool) (target : Word) :
    s.transfer taken target = .refused .transferInDelaySlot := if_pos hds

theorem transferLink_refused (hds : s.ds = true) (r : RegNum) (taken : Bool) (target : Word) :
    s.transferLink r taken target = .refused .transferInDelaySlot := if_pos hds

theorem execEret_refused (hds : s.ds = true) : execEret s = .refused .transferInDelaySlot := if_pos hds

/-- Settles O42: each branch and jump ends in one of the two transfers, and these and ERET refuse a delay slot. -/
theorem transferInDelaySlotRefused : Obligations.TransferInDelaySlotRefused := by
  intro i s hds hi
  cases i with
  | beq | bne | bgez | bgtz | blez | bltz | j | jr => exact transfer_refused hds _ _
  | bgezal | bltzal | jal | jalr => exact transferLink_refused hds _ _ _
  | eret => exact execEret_refused hds
  | _ => exact hi.elim nofun nofun

end Sys2Proof.Proofs
end

-- Proofs of 45_move_hilo.md: the moves from and to HI and LO.
section

namespace Sys2Proof.Proofs

open Sys2Proof.Machine

/-! ### HI or LO written alone -/

/-- Writing HI is writing the pair with LO as it was (R182). -/
theorem done_setHi_wroteHiLo (s : State) (v : Word) : ∃ t, (s.setHi v).done = .next t ∧ s.WroteHiLo t v s.lo :=
  done_wroteHiLo s { hi := v, lo := s.lo }

/-- Writing LO is writing the pair with HI as it was (R183). -/
theorem done_setLo_wroteHiLo (s : State) (v : Word) : ∃ t, (s.setLo v).done = .next t ∧ s.WroteHiLo t s.hi v :=
  done_wroteHiLo s { hi := s.hi, lo := v }

/-- Settles O38: MFHI and MFLO end by writing a register, MTHI and MTLO by writing one of HI and LO. -/
theorem hiLoMoves : Obligations.HiLoMoves := by
  refine fun r s => ⟨?mfhi, ?mflo, ?mthi, ?mtlo⟩
  case mfhi => exact doneReg_wroteReg s r rfl
  case mflo => exact doneReg_wroteReg s r rfl
  case mthi => exact done_setHi_wroteHiLo s (s.reg r)
  case mtlo => exact done_setLo_wroteHiLo s (s.reg r)

end Sys2Proof.Proofs
end

-- Proofs of 47_load_store.md: the address of an access, and what each load and store does.
section

namespace Sys2Proof.Proofs

open Sys2Proof.Machine

variable {s : State}

/-! ### The effective address (R190) and its place in its word -/

theorem toNat_dataAddr (s : State) (base : RegNum) (offset : BitVec 16) :
    ((s.dataAddr base offset).toNat : Int) = ((s.reg base).toNat + offset.toInt) % 2 ^ 32 := by
  rw [State.dataAddr, effectiveAddr, add_signExtImm_eq_ofInt, BitVec.toNat_ofInt]
  exact Int.toNat_of_nonneg (Int.emod_nonneg _ (by decide))

theorem toNat_alignedWord (va : Word) : (alignedWord va).toNat = va.toNat / 4 * 4 := by
  have hva := va.isLt
  have hword : va.toNat / 4 < 2 ^ 30 := by omega
  rw [alignedWord, BitVec.toNat_append, BitVec.extractLsb'_toNat, BitVec.toNat_ofNat, Nat.shiftRight_eq_div_pow,
    Nat.shiftLeft_eq, Nat.zero_mod, Nat.or_zero, Nat.mod_eq_of_lt hword]

/-- Settles O43, by the sum taken modulo 2^32 (`add_signExtImm_eq_ofInt`) and the low two bits cut off. -/
theorem effectiveAddress : Obligations.EffectiveAddress :=
  fun base offset s => ⟨toNat_dataAddr s base offset, byteInWord_eq _, toNat_alignedWord _⟩

/-! ### The bytes of a value read (20_memory.md R63, R72) -/

/-- Byte k of a little-endian value is byte k of the list. -/
theorem byteOf_leWord (bs : List Byte) (k : Nat) (hk : k < bs.length) (hword : k < 4) :
    byteOf (leWord bs) k = bs[k] := by
  induction bs generalizing k with
  | nil => exact absurd hk (Nat.not_lt_zero k)
  | cons b bs ih =>
    rw [leWord, byteOf, BitVec.extractLsb'_or]
    cases k with
    | zero =>
      apply BitVec.eq_of_getLsbD_eq
      intro i hi
      have hlt : i < 32 := by omega
      simp [hi, hlt]
    | succ k =>
      rw [List.getElem_cons_succ, ← ih k (by simpa using hk) (by omega), byteOf]
      apply BitVec.eq_of_getLsbD_eq
      intro i hi
      have hbit : 8 * (k + 1) + i - 8 = 8 * k + i := by omega
      have hlow : b.getLsbD (8 * (k + 1) + i) = false := BitVec.getLsbD_of_ge b _ (by omega)
      have hlt : 8 * (k + 1) + i < 32 := by omega
      have hge : ¬ 8 * (k + 1) + i < 8 := by omega
      simp only [BitVec.getLsbD_or, BitVec.getLsbD_extractLsb', BitVec.getLsbD_shiftLeft, BitVec.getLsbD_setWidth, hi,
        hbit, hlow, hlt, hge, decide_true, decide_false, Bool.not_false, Bool.true_and, Bool.or_false, Bool.and_false]

theorem byteOf_memRead (s : State) (va : Word) {n k : Nat} (hk : k < n) (hword : k < 4) :
    byteOf (s.memRead va n) k = s.byteAt va k := by
  rw [State.memRead, byteOf_leWord _ k (by simpa [State.busBytes] using hk) hword]
  simp [State.busBytes, State.byteAt]

/-! Neighbouring bytes of a word, joined, are the bits they were, below any other bits too. -/

theorem byteOf_one_zero (v : Word) : byteOf v 1 ++ byteOf v 0 = v.extractLsb' 0 16 :=
  BitVec.extractLsb'_append_extractLsb'_eq_extractLsb' rfl

theorem append_byteOf_one_zero {w : Nat} (x : BitVec w) (v : Word) :
    x ++ byteOf v 1 ++ byteOf v 0 = x ++ v.extractLsb' 0 16 := by
  rw [BitVec.append_assoc, byteOf_one_zero]
  rfl

theorem byteOf_two_one_zero (v : Word) : byteOf v 2 ++ byteOf v 1 ++ byteOf v 0 = v.extractLsb' 0 24 := by
  rw [append_byteOf_one_zero]
  exact BitVec.extractLsb'_append_extractLsb'_eq_extractLsb' rfl

theorem append_byteOf_two_one_zero {w : Nat} (x : BitVec w) (v : Word) :
    x ++ byteOf v 2 ++ byteOf v 1 ++ byteOf v 0 = x ++ v.extractLsb' 0 24 := by
  rw [append_byteOf_one_zero, BitVec.append_assoc, ← byteOf_two_one_zero, append_byteOf_one_zero]
  rfl

/-- A word is its four bytes. -/
theorem byteOf_append (v : Word) : byteOf v 3 ++ byteOf v 2 ++ byteOf v 1 ++ byteOf v 0 = v := by
  rw [append_byteOf_two_one_zero]
  exact (BitVec.extractLsb'_append_extractLsb'_eq_extractLsb' rfl).trans BitVec.extractLsb'_eq_self

/-! The low bits of a value read, by its bytes, below any other bits too. -/

theorem memRead_one_byte (s : State) (va : Word) {n : Nat} (hn : 0 < n) :
    (s.memRead va n).extractLsb' 0 8 = s.byteAt va 0 :=
  byteOf_memRead s va hn (by decide)

theorem memRead_two_bytes (s : State) (va : Word) {n : Nat} (hn : 1 < n) :
    (s.memRead va n).extractLsb' 0 16 = s.byteAt va 1 ++ s.byteAt va 0 := by
  rw [← byteOf_one_zero, byteOf_memRead s va (by omega) (by decide), byteOf_memRead s va (by omega) (by decide)]

theorem memRead_three_bytes (s : State) (va : Word) {n : Nat} (hn : 2 < n) :
    (s.memRead va n).extractLsb' 0 24 = s.byteAt va 2 ++ s.byteAt va 1 ++ s.byteAt va 0 := by
  rw [← byteOf_two_one_zero, byteOf_memRead s va (by omega) (by decide), byteOf_memRead s va (by omega) (by decide),
    byteOf_memRead s va (by omega) (by decide)]

theorem memRead_four_bytes (s : State) (va : Word) :
    s.memRead va 4 = s.byteAt va 3 ++ s.byteAt va 2 ++ s.byteAt va 1 ++ s.byteAt va 0 := by
  rw [← byteOf_append (s.memRead va 4), byteOf_memRead s va (by decide) (by decide),
    byteOf_memRead s va (by decide) (by decide), byteOf_memRead s va (by decide) (by decide),
    byteOf_memRead s va (by decide) (by decide)]

theorem append_memRead_two_bytes {w : Nat} (x : BitVec w) (s : State) (va : Word) {n : Nat} (hn : 1 < n) :
    x ++ (s.memRead va n).extractLsb' 0 16 = x ++ s.byteAt va 1 ++ s.byteAt va 0 := by
  rw [← append_byteOf_one_zero, byteOf_memRead s va (by omega) (by decide),
    byteOf_memRead s va (by omega) (by decide)]

theorem append_memRead_three_bytes {w : Nat} (x : BitVec w) (s : State) (va : Word) {n : Nat} (hn : 2 < n) :
    x ++ (s.memRead va n).extractLsb' 0 24 = x ++ s.byteAt va 2 ++ s.byteAt va 1 ++ s.byteAt va 0 := by
  rw [← append_byteOf_two_one_zero, byteOf_memRead s va (by omega) (by decide),
    byteOf_memRead s va (by omega) (by decide), byteOf_memRead s va (by omega) (by decide)]

/-! ### The loads (R194 to R200) -/

/-- A load ends with its register written, said of every spelling of the value. -/
theorem load_loaded {va : Word} {n : Nat} {f : Word → Word} {v : Word} (r : RegNum) (hbacked : s.backed va n = true)
    (hv : f (s.memRead va n) = v) : ∃ t, s.load r va n f = .next t ∧ s.Loaded t va n r v :=
  ⟨_, (s.load_next _ r va n f).mpr ⟨hbacked, rfl⟩, hv ▸ s.loaded_advance va n r _⟩

theorem exec_lh_of_aligned {rt base : RegNum} {offset : BitVec 16} (h : (s.dataAddr base offset).toNat % 2 = 0) :
    exec (.lh rt base offset) s = s.load rt (s.dataAddr base offset) 2 (fun m => (m.setWidth 16).signExtend 32) :=
  loadAligned_of_aligned (aligned2_of_mod h) ..

theorem exec_lhu_of_aligned {rt base : RegNum} {offset : BitVec 16} (h : (s.dataAddr base offset).toNat % 2 = 0) :
    exec (.lhu rt base offset) s = s.load rt (s.dataAddr base offset) 2 (fun m => (m.setWidth 16).setWidth 32) :=
  loadAligned_of_aligned (aligned2_of_mod h) ..

theorem exec_lw_of_aligned {rt base : RegNum} {offset : BitVec 16} (h : (s.dataAddr base offset).toNat % 4 = 0) :
    exec (.lw rt base offset) s = s.load rt (s.dataAddr base offset) 4 (fun m => m) :=
  loadAligned_of_aligned (aligned4_of_mod h) ..

/-- The signed value of a halfword: its high byte carries the sign. -/
theorem toInt_halfword (b₁ b₀ : Byte) : (b₁ ++ b₀).toInt = b₁.toInt * 256 + b₀.toNat := by
  rw [BitVec.toInt_append, if_neg (by decide), Int.mul_comm]
  rfl

theorem toNat_halfword (b₁ b₀ : Byte) : (b₁ ++ b₀).toNat = b₁.toNat * 256 + b₀.toNat := by
  rw [BitVec.toNat_append, ← Nat.shiftLeft_add_eq_or_of_lt b₀.isLt, Nat.shiftLeft_eq]

/-- Settles O44: an aligned load is the plain one, and its value is put together from the bytes read, sign-extended as
`BitVec.ofInt` or zero-extended as `BitVec.ofNat` of that value. -/
theorem loads : Obligations.Loads := by
  intro rt base offset s va
  refine ⟨fun hbacked => ?byte, fun heven hbacked => ?half, fun hzero hbacked => ?word⟩
  case byte =>
    have hvalue : (s.memRead va 1).setWidth 8 = s.byteAt va 0 := by
      rw [BitVec.setWidth_eq_extractLsb' (by decide), memRead_one_byte s va (by decide)]
    rw [← hvalue, BitVec.ofNat_toNat]
    simp only [exec, execLb, execLbu]
    exact ⟨load_loaded rt hbacked rfl, load_loaded rt hbacked rfl⟩
  case half =>
    have hvalue : (s.memRead va 2).setWidth 16 = s.byteAt va 1 ++ s.byteAt va 0 := by
      rw [BitVec.setWidth_eq_extractLsb' (by decide), memRead_two_bytes s va (by decide)]
    rw [← toInt_halfword, ← toNat_halfword, ← hvalue, BitVec.ofNat_toNat, exec_lh_of_aligned heven,
      exec_lhu_of_aligned heven]
    exact ⟨load_loaded rt hbacked rfl, load_loaded rt hbacked rfl⟩
  case word =>
    rw [exec_lw_of_aligned hzero]
    exact load_loaded rt hbacked (memRead_four_bytes s va)

/-- LWL at place k of its word reads the k+1 bytes up to the address. -/
theorem lwl_loaded {rt base : RegNum} {offset : BitVec 16} {k : Nat} {v : Word}
    (hk : (s.dataAddr base offset).toNat % 4 = k)
    (hbacked : s.backed (alignedWord (s.dataAddr base offset)) (k + 1) = true)
    (hv : mergeLeft k (s.memRead (alignedWord (s.dataAddr base offset)) (k + 1)) (s.reg rt) = v) :
    ∃ t, exec (.lwl rt base offset) s = .next t ∧ s.Loaded t (alignedWord (s.dataAddr base offset)) (k + 1) rt v := by
  simp only [exec, execLwl, byteInWord_eq, hk]
  exact load_loaded rt hbacked hv

/-- LWR at place k of its word reads the 4-k bytes from the address up. -/
theorem lwr_loaded {rt base : RegNum} {offset : BitVec 16} {k : Nat} {v : Word}
    (hk : (s.dataAddr base offset).toNat % 4 = k) (hbacked : s.backed (s.dataAddr base offset) (4 - k) = true)
    (hv : mergeRight k (s.memRead (s.dataAddr base offset) (4 - k)) (s.reg rt) = v) :
    ∃ t, exec (.lwr rt base offset) s = .next t ∧ s.Loaded t (s.dataAddr base offset) (4 - k) rt v := by
  simp only [exec, execLwr, byteInWord_eq, hk]
  exact load_loaded rt hbacked hv

/-- Settles O45: in each row of the two tables the bytes read stand where the merge puts them. -/
theorem loadWordLeftAndRight : Obligations.LoadWordLeftAndRight := by
  intro rt base offset s va A x lwlGives lwrGives
  refine ⟨fun hk => ⟨fun hbacked => lwl_loaded hk hbacked ?left0, fun hbacked => lwr_loaded hk hbacked ?right0⟩,
    fun hk => ⟨fun hbacked => lwl_loaded hk hbacked ?left1, fun hbacked => lwr_loaded hk hbacked ?right1⟩,
    fun hk => ⟨fun hbacked => lwl_loaded hk hbacked ?left2, fun hbacked => lwr_loaded hk hbacked ?right2⟩,
    fun hk => ⟨fun hbacked => lwl_loaded hk hbacked ?left3, fun hbacked => lwr_loaded hk hbacked ?right3⟩⟩
  case left0 => exact congrArg (· ++ x.extractLsb' 0 24) (memRead_one_byte s A (by decide))
  case left1 => exact congrArg (· ++ x.extractLsb' 0 16) (memRead_two_bytes s A (by decide))
  case left2 => exact congrArg (· ++ x.extractLsb' 0 8) (memRead_three_bytes s A (by decide))
  case left3 => exact memRead_four_bytes s A
  case right0 => exact memRead_four_bytes s va
  case right1 => exact append_memRead_three_bytes (x.extractLsb' 24 8) s va (by decide)
  case right2 => exact append_memRead_two_bytes (x.extractLsb' 16 16) s va (by decide)
  case right3 => exact congrArg (x.extractLsb' 8 24 ++ ·) (memRead_one_byte s va (by decide))

/-! ### The stores (R201 to R205) -/

/-- A store ends with its bytes written, said of every spelling of the bytes. -/
theorem store_stored {va : Word} {n : Nat} {v : Word} {bytes : Nat → Byte} (hbacked : s.backed va n = true)
    (hbytes : byteOf v = bytes) : ∃ t, s.store va n v = .next t ∧ s.Stored t va n bytes :=
  ⟨_, (s.store_next _ va n v).mpr ⟨hbacked, rfl⟩, hbytes ▸ s.stored_advance va n v⟩

theorem exec_sh_of_aligned {rt base : RegNum} {offset : BitVec 16} (h : (s.dataAddr base offset).toNat % 2 = 0) :
    exec (.sh rt base offset) s = s.store (s.dataAddr base offset) 2 (s.reg rt) :=
  storeAligned_of_aligned (aligned2_of_mod h) ..

theorem exec_sw_of_aligned {rt base : RegNum} {offset : BitVec 16} (h : (s.dataAddr base offset).toNat % 4 = 0) :
    exec (.sw rt base offset) s = s.store (s.dataAddr base offset) 4 (s.reg rt) :=
  storeAligned_of_aligned (aligned4_of_mod h) ..

/-- Settles O46: an aligned store is the plain one, of the low bytes of its register. -/
theorem stores : Obligations.Stores := by
  refine fun rt base offset s => ⟨fun hbacked => ?byte, fun heven hbacked => ?half, fun hzero hbacked => ?word⟩
  case byte => exact store_stored hbacked rfl
  case half => rw [exec_sh_of_aligned heven]; exact store_stored hbacked rfl
  case word => rw [exec_sw_of_aligned hzero]; exact store_stored hbacked rfl

/-- The bytes SWL stores are the upper ones of the register (R204). -/
theorem byteOf_leftBytes {k : Nat} (hk : k < 4) (v : Word) :
    byteOf (leftBytes k v) = fun j => byteOf v (3 - k + j) := by
  funext j
  have hstart : 24 - 8 * k + 8 * j = 8 * (3 - k + j) := by omega
  apply BitVec.eq_of_getLsbD_eq
  intro i hi
  simp [byteOf, leftBytes, hi, ← hstart, Nat.add_assoc]

theorem swl_stored {rt base : RegNum} {offset : BitVec 16} {k : Nat} (hk : (s.dataAddr base offset).toNat % 4 = k)
    (hbacked : s.backed (alignedWord (s.dataAddr base offset)) (k + 1) = true) :
    ∃ t, exec (.swl rt base offset) s = .next t ∧
      s.Stored t (alignedWord (s.dataAddr base offset)) (k + 1) (fun j => byteOf (s.reg rt) (3 - k + j)) := by
  simp only [exec, execSwl, byteInWord_eq, hk]
  exact store_stored hbacked (byteOf_leftBytes (by omega) _)

theorem swr_stored {rt base : RegNum} {offset : BitVec 16} {k : Nat} (hk : (s.dataAddr base offset).toNat % 4 = k)
    (hbacked : s.backed (s.dataAddr base offset) (4 - k) = true) :
    ∃ t, exec (.swr rt base offset) s = .next t ∧
      s.Stored t (s.dataAddr base offset) (4 - k) (byteOf (s.reg rt)) := by
  simp only [exec, execSwr, byteInWord_eq, hk]
  exact store_stored hbacked rfl

/-- Settles O47: SWL stores the upper bytes of its register (`byteOf_leftBytes`), SWR the lower. -/
theorem storeWordLeftAndRight : Obligations.StoreWordLeftAndRight :=
  fun _ _ _ _ => ⟨swl_stored rfl, swr_stored rfl⟩

end Sys2Proof.Proofs
end

-- Proofs of 47_load_store.md: the unaligned pairs.
section

namespace Sys2Proof.Proofs

open Sys2Proof.Machine

variable {s t u : State} {rt base : RegNum} {offset : BitVec 16} {p : Word} {d n : Nat}

/-! ### The four bytes at any address, and their parts that lie in one aligned word (R206) -/

/-- The bytes d to d + n - 1 of the four at `p` lie in one aligned word. -/
structure WordPart (p : Word) (d n : Nat) : Prop where
  inFour : d + n ≤ 4
  inWord : (p + BitVec.ofNat 32 d).toNat % 4 + n ≤ 4

/-- LWR and SWR at `p` reach the bytes from `p` to the end of its word. -/
theorem wordPart_right (p : Word) : WordPart p 0 (4 - p.toNat % 4) where
  inFour := by omega
  inWord := by rw [BitVec.add_zero]; omega

/-- LWL and SWL at `p + 3` reach the bytes from the start of its word to `p + 3`. -/
theorem wordPart_left (p : Word) : WordPart p (3 - (p + 3).toNat % 4) ((p + 3).toNat % 4 + 1) where
  inFour := by omega
  inWord := by bv_omega

theorem alignedWord_add_three (p : Word) :
    alignedWord (p + 3) = p + BitVec.ofNat 32 (3 - (p + 3).toNat % 4) := by
  have haligned := toNat_alignedWord (p + 3)
  bv_omega

/-- The two parts cover the four bytes. -/
theorem mem_right_or_left (p : Word) {j : Nat} (hj : j < 4) :
    (0 ≤ j ∧ j < 0 + (4 - p.toNat % 4)) ∨
      (3 - (p + 3).toNat % 4 ≤ j ∧ j < 3 - (p + 3).toNat % 4 + ((p + 3).toNat % 4 + 1)) := by
  bv_omega

/-! Where an access goes rests on the parameters only. -/

theorem physAddr_of_cfg (hcfg : t.cfg = s.cfg) (a : Word) (k : Nat) : t.physAddr a k = s.physAddr a k := by
  rw [State.physAddr, State.physAddr, hcfg]

theorem isDevice_of_cfg (hcfg : t.cfg = s.cfg) (pa : Nat) : t.isDevice pa = s.isDevice pa := by
  rw [State.isDevice, State.isDevice, hcfg]

/-- A legal SEGMAP, and ordinary memory at the four bytes. -/
structure OrdinaryWord (s : State) (p : Word) : Prop where
  platform : platformOk s.cfg = true
  ordinary : ∀ j < 4, s.ordinary (p + BitVec.ofNat 32 j) 1 = true

/-- It rests on the parameters only, so one instruction leaves it to the next. -/
theorem ordinaryWord_of_cfg (hs : OrdinaryWord s p) (hcfg : t.cfg = s.cfg) : OrdinaryWord t p := by
  refine ⟨hcfg ▸ hs.platform, fun j hj => ?_⟩
  rw [← hs.ordinary j hj]
  simp [State.ordinary, State.physAddrs, State.physAddr, hcfg]

/-- Byte j of an access to a part is byte d + j of the four. -/
theorem physAddr_part (hp : platformOk s.cfg = true) (hpart : WordPart p d n) {j : Nat} (hj : j < n) :
    s.physAddr (p + BitVec.ofNat 32 d) j = s.physAddr (p + BitVec.ofNat 32 (d + j)) 0 := by
  have hword := hpart.inWord
  have hsplit : p + BitVec.ofNat 32 (d + j) = p + BitVec.ofNat 32 d + BitVec.ofNat 32 j := by
    rw [BitVec.ofNat_add, BitVec.add_assoc]
  rw [State.physAddr, State.physAddr, hsplit, translate_add hp (va := p + BitVec.ofNat 32 d) (by omega),
    Nat.add_zero]

/-- The four bytes have four places in their words, so no two of them are one physical byte. -/
theorem physAddr_ne (hp : platformOk s.cfg = true) {i j : Nat} (hi : i < 4) (hj : j < 4) (hne : i ≠ j) :
    s.physAddr (p + BitVec.ofNat 32 i) 0 ≠ s.physAddr (p + BitVec.ofNat 32 j) 0 := by
  have hplacei := translate_mod_four hp (p + BitVec.ofNat 32 i)
  have hplacej := translate_mod_four hp (p + BitVec.ofNat 32 j)
  unfold State.physAddr
  bv_omega

theorem ordinary_part (hs : OrdinaryWord s p) (hpart : WordPart p d n) :
    s.ordinary (p + BitVec.ofNat 32 d) n = true := by
  refine List.all_eq_true.mpr fun pa hpa => ?_
  obtain ⟨j, hj, rfl⟩ := (s.mem_physAddrs _ n pa).mp hpa
  have hfour := hpart.inFour
  rw [physAddr_part hs.platform hpart hj]
  exact List.all_eq_true.mp (hs.ordinary (d + j) (by omega)) _ ((s.mem_physAddrs _ _ _).mpr ⟨0, Nat.one_pos, rfl⟩)

/-- Ordinary memory is read as it is, whatever a device would answer. -/
theorem byteAt_of_ordinary {va : Word} {k : Nat} (h : s.ordinary va n = true) (hk : k < n) :
    s.byteAt va k = s.readByte (s.physAddr va k) := by
  rw [State.byteAt, State.busByte, isDevice_of_ordinary h hk]
  rfl

theorem byteAt_part (hs : OrdinaryWord s p) (hpart : WordPart p d n) {j : Nat} (hj : j < n) :
    s.byteAt (p + BitVec.ofNat 32 d) j = s.byteAt (p + BitVec.ofNat 32 (d + j)) 0 := by
  have hfour := hpart.inFour
  rw [byteAt_of_ordinary (ordinary_part hs hpart) hj, byteAt_of_ordinary (hs.ordinary (d + j) (by omega)) Nat.one_pos,
    physAddr_part hs.platform hpart hj]

/-- An offset three above, where it still fits in its field, names the address three above. -/
theorem dataAddr_add_three (s : State) (base : RegNum) (h : offset.toInt + 3 < 2 ^ 15) :
    s.dataAddr base (offset + 3) = s.dataAddr base offset + 3 := by
  have hlow := offset.le_toInt
  have hsum : (offset + 3).toInt = offset.toInt + 3 := by
    rw [BitVec.toInt_add]
    exact Int.bmod_eq_of_le (le_trans (by decide) (Int.add_le_add_right hlow 3)) h
  rw [State.dataAddr, State.dataAddr, effectiveAddr, effectiveAddr, BitVec.add_assoc, signExtImm, signExtImm,
    BitVec.signExtend, BitVec.signExtend, hsum, BitVec.ofInt_add]
  rfl

/-! ### The pair of loads -/

theorem getLsbD_mergeRight {k : Nat} (hk : k < 4) (m old : Word) {x : Nat} (hx : x < 32) :
    (mergeRight k m old).getLsbD x = if x < 32 - 8 * k then m.getLsbD x else old.getLsbD x := by
  obtain rfl | rfl | rfl | rfl : k = 0 ∨ k = 1 ∨ k = 2 ∨ k = 3 := by omega
  all_goals grind [mergeRight]

theorem getLsbD_mergeLeft {k : Nat} (hk : k < 4) (m old : Word) {x : Nat} (hx : x < 32) :
    (mergeLeft k m old).getLsbD x = if x < 24 - 8 * k then old.getLsbD x else m.getLsbD (x - (24 - 8 * k)) := by
  obtain rfl | rfl | rfl | rfl : k = 0 ∨ k = 1 ∨ k = 2 ∨ k = 3 := by omega
  all_goals grind [mergeLeft]

/-- LWR's merge puts the bytes read at the bottom. -/
theorem byteOf_mergeRight {k : Nat} (hk : k < 4) (m old : Word) {j : Nat} (hj : j < 4) :
    byteOf (mergeRight k m old) j = if j < 4 - k then byteOf m j else byteOf old j := by
  apply BitVec.eq_of_getLsbD_eq
  intro i hi
  have hbit : 8 * j + i < 32 - 8 * k ↔ j < 4 - k := by omega
  rw [apply_ite (BitVec.getLsbD · i)]
  simp only [byteOf, BitVec.getLsbD_extractLsb', getLsbD_mergeRight hk m old (by omega : 8 * j + i < 32), hbit, hi,
    decide_true, Bool.true_and]

/-- LWL's merge puts the bytes read at the top. -/
theorem byteOf_mergeLeft {k : Nat} (hk : k < 4) (m old : Word) {j : Nat} (hj : j < 4) :
    byteOf (mergeLeft k m old) j = if j < 3 - k then byteOf old j else byteOf m (j - (3 - k)) := by
  apply BitVec.eq_of_getLsbD_eq
  intro i hi
  have hbit : 8 * j + i < 24 - 8 * k ↔ j < 3 - k := by omega
  rw [apply_ite (BitVec.getLsbD · i)]
  simp only [byteOf, BitVec.getLsbD_extractLsb', getLsbD_mergeLeft hk m old (by omega : 8 * j + i < 32), hbit, hi,
    decide_true, Bool.true_and]
  split
  case isTrue => rfl
  case isFalse => congr 1; omega

/-- A load completed that put the bytes d to d + n - 1 of the four at `p` in their places in rt, and kept rt's others. -/
def LoadsPart (s t : State) (rt : RegNum) (p : Word) (d n : Nat) : Prop :=
  ∃ v, s.Loaded t (p + BitVec.ofNat 32 d) n rt v ∧ ∀ j < 4, byteOf v j =
    if d ≤ j ∧ j < d + n then s.byteAt (p + BitVec.ofNat 32 j) 0 else byteOf (s.reg rt) j

theorem lwr_loadsPart (rt : RegNum) (hs : OrdinaryWord s p) (hva : s.dataAddr base offset = p) :
    ∃ t, exec (.lwr rt base offset) s = .next t ∧ LoadsPart s t rt p 0 (4 - p.toNat % 4) := by
  have hpart := wordPart_right p
  have hord := ordinary_part hs hpart
  rw [BitVec.add_zero] at hord
  obtain ⟨t, hnext, hloaded⟩ := lwr_loaded (rt := rt) (s := s) (k := p.toNat % 4) (by rw [hva])
    (by rw [hva]; exact backed_of_ordinary hord) rfl
  rw [hva] at hloaded
  refine ⟨t, hnext, _, by rwa [BitVec.add_zero], fun j hj => ?_⟩
  rw [byteOf_mergeRight (by omega) _ _ hj]
  refine if_ctx_congr (by omega) (fun hin => ?_) (fun _ => rfl)
  have hmerged := byteAt_part hs hpart (j := j) (by omega)
  rw [byteOf_memRead _ _ (by omega) hj]
  rwa [BitVec.add_zero, Nat.zero_add] at hmerged

theorem lwl_loadsPart (rt : RegNum) (hs : OrdinaryWord s p) (hva : s.dataAddr base offset = p + 3) :
    ∃ t, exec (.lwl rt base offset) s = .next t ∧
      LoadsPart s t rt p (3 - (p + 3).toNat % 4) ((p + 3).toNat % 4 + 1) := by
  have hpart := wordPart_left p
  have hfirst : alignedWord (s.dataAddr base offset) = p + BitVec.ofNat 32 (3 - (p + 3).toNat % 4) := by
    rw [hva, alignedWord_add_three]
  obtain ⟨t, hnext, hloaded⟩ := lwl_loaded (rt := rt) (s := s) (k := (p + 3).toNat % 4) (by rw [hva])
    (by rw [hfirst]; exact backed_of_ordinary (ordinary_part hs hpart)) rfl
  rw [hfirst] at hloaded
  refine ⟨t, hnext, _, hloaded, fun j hj => ?_⟩
  rw [byteOf_mergeLeft (by omega) _ _ hj, ← ite_not]
  refine if_ctx_congr (by omega) (fun hin => ?_) (fun _ => rfl)
  rw [byteOf_memRead _ _ (by omega) (by omega), byteAt_part hs hpart (by omega)]
  congr 3
  omega

theorem byteAt_of_loaded {va : Word} {r : RegNum} {v : Word} (h : s.Loaded t va n r v) (a : Word) (k : Nat) :
    t.byteAt a k = s.byteAt a k := by
  rw [State.byteAt, State.byteAt, State.busByte, State.busByte, physAddr_of_cfg h.setting.cfg,
    isDevice_of_cfg h.setting.cfg, h.setting.deviceData, h.memory]

/-- A load that leaves the base alone leaves the address of the next access. -/
theorem dataAddr_of_loaded {va : Word} {v : Word} (h : s.Loaded t va n rt v) (hbase : rt ≠ base ∨ rt = 0#5)
    (offset : BitVec 16) : t.dataAddr base offset = s.dataAddr base offset := by
  have hreg : t.reg base = s.reg base := by
    by_cases heq : base = rt
    · obtain rfl : base = 0#5 := heq.trans (hbase.resolve_left (not_not_intro heq.symm))
      rfl
    · exact h.regs.others base heq
  rw [State.dataAddr, State.dataAddr, hreg]

/-- Two loads of parts that together are the four bytes load the word. -/
theorem reg_of_loadsPart {d₁ n₁ d₂ n₂ : Nat} (h₁ : LoadsPart s t rt p d₁ n₁) (h₂ : LoadsPart t u rt p d₂ n₂)
    (hcover : ∀ j < 4, (d₁ ≤ j ∧ j < d₁ + n₁) ∨ (d₂ ≤ j ∧ j < d₂ + n₂)) :
    u.reg rt = if rt = 0#5 then 0#32 else
      s.byteAt (p + 3) 0 ++ s.byteAt (p + 2) 0 ++ s.byteAt (p + 1) 0 ++ s.byteAt p 0 := by
  obtain ⟨v₁, hloaded₁, hbytes₁⟩ := h₁
  obtain ⟨v₂, hloaded₂, hbytes₂⟩ := h₂
  by_cases hzero : rt = 0#5
  case pos => rw [if_pos hzero, hzero, State.reg_zero]
  case neg =>
    have hbyte : ∀ j < 4, byteOf v₂ j = s.byteAt (p + BitVec.ofNat 32 j) 0 := by
      intro j hj
      rw [hbytes₂ j hj, byteAt_of_loaded hloaded₁, hloaded₁.regs.value hzero, hbytes₁ j hj, ite_eq_left_iff]
      exact fun hout => if_pos ((hcover j hj).resolve_right hout)
    rw [if_neg hzero, hloaded₂.regs.value hzero, ← byteOf_append v₂, hbyte 3 (by decide), hbyte 2 (by decide),
      hbyte 1 (by decide), hbyte 0 (by decide), BitVec.add_zero]
    rfl

/-- Settles O52: in either order each load fills its part (`lwr_loadsPart`, `lwl_loadsPart`), and the parts cover the four
bytes (`mem_right_or_left`). -/
theorem unalignedLoadPair : Obligations.UnalignedLoadPair := by
  intro rt base offset s p hplatform hbase hoffset hord w
  have hs : OrdinaryWord s p := ⟨hplatform, hord⟩
  have hleft : s.dataAddr base (offset + 3) = p + 3 := dataAddr_add_three s base hoffset
  refine ⟨?rightFirst, ?leftFirst⟩
  case rightFirst =>
    obtain ⟨t, hfirst, v, hloaded, hbytes⟩ := lwr_loadsPart rt hs rfl
    obtain ⟨u, hsecond, hpart⟩ := lwl_loadsPart rt (ordinaryWord_of_cfg hs hloaded.setting.cfg)
      ((dataAddr_of_loaded hloaded hbase _).trans hleft)
    exact ⟨t, u, hfirst, hsecond, reg_of_loadsPart ⟨v, hloaded, hbytes⟩ hpart fun _ => mem_right_or_left p⟩
  case leftFirst =>
    obtain ⟨t, hfirst, v, hloaded, hbytes⟩ := lwl_loadsPart rt hs hleft
    obtain ⟨u, hsecond, hpart⟩ := lwr_loadsPart rt (ordinaryWord_of_cfg hs hloaded.setting.cfg)
      (dataAddr_of_loaded hloaded hbase _)
    exact ⟨t, u, hfirst, hsecond, reg_of_loadsPart ⟨v, hloaded, hbytes⟩ hpart fun _ hj => (mem_right_or_left p hj).symm⟩

/-! ### The pair of stores -/

/-- A store completed of the bytes d to d + n - 1 of the register to their places among the four at `p`. -/
def StoresPart (s t : State) (rt : RegNum) (p : Word) (d n : Nat) : Prop :=
  s.Stored t (p + BitVec.ofNat 32 d) n fun j => byteOf (s.reg rt) (d + j)

theorem swr_storesPart (rt : RegNum) (hs : OrdinaryWord s p) (hva : s.dataAddr base offset = p) :
    ∃ t, exec (.swr rt base offset) s = .next t ∧ StoresPart s t rt p 0 (4 - p.toNat % 4) := by
  have hord := ordinary_part hs (wordPart_right p)
  rw [BitVec.add_zero] at hord
  obtain ⟨t, hnext, hstored⟩ := swr_stored (rt := rt) (s := s) (k := p.toNat % 4) (by rw [hva])
    (by rw [hva]; exact backed_of_ordinary hord)
  refine ⟨t, hnext, ?_⟩
  rw [hva] at hstored
  simpa only [StoresPart, BitVec.add_zero, Nat.zero_add] using hstored

theorem swl_storesPart (rt : RegNum) (hs : OrdinaryWord s p) (hva : s.dataAddr base offset = p + 3) :
    ∃ t, exec (.swl rt base offset) s = .next t ∧
      StoresPart s t rt p (3 - (p + 3).toNat % 4) ((p + 3).toNat % 4 + 1) := by
  have hfirst : alignedWord (s.dataAddr base offset) = p + BitVec.ofNat 32 (3 - (p + 3).toNat % 4) := by
    rw [hva, alignedWord_add_three]
  obtain ⟨t, hnext, hstored⟩ := swl_stored (rt := rt) (s := s) (k := (p + 3).toNat % 4) (by rw [hva])
    (by rw [hfirst]; exact backed_of_ordinary (ordinary_part hs (wordPart_left p)))
  rw [hfirst] at hstored
  exact ⟨t, hnext, hstored⟩

/-- A byte of the part holds its byte of the register. -/
theorem readByte_of_storesPart_mem (hs : OrdinaryWord s p) (hpart : WordPart p d n) (h : StoresPart s t rt p d n)
    {j : Nat} (hj : d ≤ j ∧ j < d + n) :
    t.readByte (s.physAddr (p + BitVec.ofNat 32 j) 0) = byteOf (s.reg rt) j := by
  have hplace : d + (j - d) = j := by omega
  have hin : j - d < n := by omega
  have hwritten := h.written (j - d) hin (isDevice_of_ordinary (ordinary_part hs hpart) hin)
  rwa [physAddr_part hs.platform hpart hin, hplace] at hwritten

/-- Every other byte is as before. -/
theorem readByte_of_storesPart_notMem (hs : OrdinaryWord s p) (hpart : WordPart p d n) (h : StoresPart s t rt p d n)
    {pa : Nat} (hpa : ∀ j, d ≤ j ∧ j < d + n → pa ≠ s.physAddr (p + BitVec.ofNat 32 j) 0) :
    t.readByte pa = s.readByte pa := by
  refine h.untouched pa (.inl fun k hk => ?_)
  rw [physAddr_part hs.platform hpart hk]
  exact hpa (d + k) (by omega)

theorem dataAddr_of_stored {va : Word} {bytes : Nat → Byte} (h : s.Stored t va n bytes) (base : RegNum)
    (offset : BitVec 16) : t.dataAddr base offset = s.dataAddr base offset := by
  rw [State.dataAddr, State.dataAddr, h.regs base]

/-- Two stores of parts that together are the four bytes store the register, and touch nothing else: a byte the second does
not store is none of those it does (`physAddr_ne`). -/
theorem bytes_of_storesPart {d₁ n₁ d₂ n₂ : Nat} (hs : OrdinaryWord s p) (hpart₁ : WordPart p d₁ n₁)
    (hpart₂ : WordPart p d₂ n₂) (h₁ : StoresPart s t rt p d₁ n₁) (h₂ : StoresPart t u rt p d₂ n₂)
    (hcover : ∀ j < 4, (d₁ ≤ j ∧ j < d₁ + n₁) ∨ (d₂ ≤ j ∧ j < d₂ + n₂)) :
    (∀ j, j < 4 → u.byteAt (p + BitVec.ofNat 32 j) 0 = byteOf (s.reg rt) j) ∧
      ∀ pa, (∀ j, j < 4 → pa ≠ s.physAddr (p + BitVec.ofNat 32 j) 0) → u.readByte pa = s.readByte pa := by
  have ht : OrdinaryWord t p := ordinaryWord_of_cfg hs h₁.setting.cfg
  have hu : OrdinaryWord u p := ordinaryWord_of_cfg ht h₂.setting.cfg
  have hfour₁ := hpart₁.inFour
  have hfour₂ := hpart₂.inFour
  have hphys := physAddr_of_cfg h₁.setting.cfg
  refine ⟨fun j hj => ?stored, fun pa hpa => ?others⟩
  case stored =>
    rw [byteAt_of_ordinary (hu.ordinary j hj) Nat.one_pos, physAddr_of_cfg h₂.setting.cfg]
    by_cases hsecond : d₂ ≤ j ∧ j < d₂ + n₂
    case pos => rw [readByte_of_storesPart_mem ht hpart₂ h₂ hsecond, h₁.regs rt]
    case neg =>
      have hfirst := (hcover j hj).resolve_right hsecond
      have hkept : ∀ i, d₂ ≤ i ∧ i < d₂ + n₂ →
          t.physAddr (p + BitVec.ofNat 32 j) 0 ≠ t.physAddr (p + BitVec.ofNat 32 i) 0 :=
        fun i hi => physAddr_ne ht.platform hj (by omega) fun heq => hsecond (heq ▸ hi)
      rw [readByte_of_storesPart_notMem ht hpart₂ h₂ hkept, hphys, readByte_of_storesPart_mem hs hpart₁ h₁ hfirst]
  case others =>
    rw [readByte_of_storesPart_notMem ht hpart₂ h₂ fun j hj => by rw [hphys]; exact hpa j (by omega),
      readByte_of_storesPart_notMem hs hpart₁ h₁ fun j hj => hpa j (by omega)]

/-- Settles O53: in either order each store writes its part (`swr_storesPart`, `swl_storesPart`), and the parts are the
four bytes (`bytes_of_storesPart`, `mem_right_or_left`). -/
theorem unalignedStorePair : Obligations.UnalignedStorePair := by
  intro rt base offset s p hplatform hoffset hord first second horder
  have hs : OrdinaryWord s p := ⟨hplatform, hord⟩
  have hleft : s.dataAddr base (offset + 3) = p + 3 := dataAddr_add_three s base hoffset
  rcases horder with ⟨rfl, rfl⟩ | ⟨rfl, rfl⟩
  case inl =>
    obtain ⟨t, hfirst, h₁⟩ := swr_storesPart rt hs rfl
    obtain ⟨u, hsecond, h₂⟩ := swl_storesPart rt (ordinaryWord_of_cfg hs h₁.setting.cfg)
      ((dataAddr_of_stored h₁ _ _).trans hleft)
    exact ⟨t, u, hfirst, hsecond, bytes_of_storesPart hs (wordPart_right p) (wordPart_left p) h₁ h₂
      fun _ => mem_right_or_left p⟩
  case inr =>
    obtain ⟨t, hfirst, h₁⟩ := swl_storesPart rt hs hleft
    obtain ⟨u, hsecond, h₂⟩ := swr_storesPart rt (ordinaryWord_of_cfg hs h₁.setting.cfg)
      (dataAddr_of_stored h₁ _ _)
    exact ⟨t, u, hfirst, hsecond, bytes_of_storesPart hs (wordPart_left p) (wordPart_right p) h₁ h₂
      fun _ hj => (mem_right_or_left p hj).symm⟩

end Sys2Proof.Proofs
end

-- Proofs of 48_privileged.md: ERET outside a delay slot, and the moves from and to the CP0 registers.
section

namespace Sys2Proof.Proofs

open Sys2Proof.Machine

variable {s : State}

/-! ### ERET (R210) -/

/-- Outside a delay slot ERET completes; `execEret_refused` is the other half. -/
theorem execEret_next (hds : s.ds = false) : execEret s = .next s.exceptionReturn :=
  if_neg (Bool.eq_false_iff.mp hds)

/-- Settles O26: the return is `State.exceptionReturn`, field by field. -/
theorem eretReturns : Obligations.EretReturns := fun _ => execEret_next

/-! ### MFC0 (R211): the Status and Cause words, field by field -/

theorem status_getLsbD_im (s : State) {n : Nat} (hn : n < 8) : s.status.getLsbD (8 + n) = s.im.getLsbD n := by
  rw [status_getLsbD s (by omega), if_neg (by omega), if_neg (by omega), if_neg (by omega), if_pos (by omega),
    Nat.add_sub_cancel_left]

theorem status_getLsbD_reserved (s : State) {n : Nat} (hn : (23 ≤ n ∧ n < 32) ∨ (16 ≤ n ∧ n < 22) ∨ (2 ≤ n ∧ n < 8)) :
    s.status.getLsbD n = false := by
  rw [status_getLsbD s (by omega), if_neg (by omega), if_neg (by omega)]
  obtain hlow | hhigh : n < 8 ∨ 16 ≤ n := by omega
  · exact if_pos hlow
  · rw [if_neg (by omega), if_neg (by omega)]
    exact decide_eq_false (by omega)

theorem cause_getLsbD_ip (s : State) {n : Nat} (hn : n < 8) : s.cause.getLsbD (8 + n) = s.lineActive n := by
  rw [cause_getLsbD s (by omega), if_neg (by omega), if_neg (by omega), if_neg (by omega), if_pos (by omega),
    Nat.add_sub_cancel_left]

theorem cause_getLsbD_excCode (s : State) {n : Nat} (hn : n < 5) : s.cause.getLsbD (2 + n) = s.excCode.getLsbD n := by
  rw [cause_getLsbD s (by omega), if_neg (by omega), if_pos (by omega), Nat.add_sub_cancel_left]

theorem cause_getLsbD_reserved (s : State) {n : Nat} (hn : (16 ≤ n ∧ n < 30) ∨ n = 7 ∨ n < 2) :
    s.cause.getLsbD n = false := by
  rw [cause_getLsbD s (by omega)]
  rcases hn with hhigh | rfl | hlow
  · rw [if_neg (by omega), if_neg (by omega), if_neg (by omega), if_neg (by omega), if_pos (by omega)]
  · rfl
  · exact if_pos hlow

/-- Settles O56: each MFC0 ends by writing what `State.readCp0` reads (`doneReg_wroteReg`); the bits of Status and Cause
are those of `status_getLsbD` and `cause_getLsbD`. -/
theorem readCp0 : Obligations.ReadCp0 := by
  refine fun rt s => ⟨?badVAddr, ?count, ?compare, ?epc, ?status, ?cause⟩
  case badVAddr | count | compare | epc => exact doneReg_wroteReg s rt rfl
  case status =>
    exact doneReg_wroteReg_of s rt ⟨status_getLsbD s (by decide), status_getLsbD s (by decide),
      status_getLsbD s (by decide), fun _ => status_getLsbD_im s, fun _ => status_getLsbD_reserved s⟩
  case cause =>
    exact doneReg_wroteReg_of s rt ⟨cause_getLsbD s (by decide), cause_getLsbD s (by decide),
      fun _ => cause_getLsbD_ip s, fun _ => cause_getLsbD_excCode s, fun _ => cause_getLsbD_reserved s⟩

/-! ### MTC0 (R212, R214) -/

/-- MTC0 completes, its one effect the write of the register it names. -/
theorem exec_mtc0_of_write {t : State} {rt : RegNum} {rd : BitVec 5} {sel : BitVec 3}
    (hwrite : s.writeCp0 rd sel (s.reg rt) = t) : exec (.mtc0 rt rd sel) s = .next t.advance :=
  (State.done_next ..).mpr (congrArg State.advance hwrite.symm)

/-- Settles O57: the number names the register, and each register's write is what the table of R214 lists. -/
theorem writeCp0 : Obligations.WriteCp0 := by
  refine fun rt s => ⟨?badVAddr, ?count, ?compare, ?status, ?cause, ?epc⟩
  case badVAddr => exact exec_mtc0_of_write (t := s) rfl
  case count => exact exec_mtc0_of_write (t := s.setCount (s.reg rt)) rfl
  case compare => exact exec_mtc0_of_write (t := s.setCompare (s.reg rt)) rfl
  case status => exact exec_mtc0_of_write (t := s.setStatus (s.reg rt)) rfl
  case cause => exact exec_mtc0_of_write (t := s.setCause (s.reg rt)) rfl
  case epc => exact exec_mtc0_of_write (t := s.setEpc (s.reg rt)) rfl

/-! ### Pairs that name no register (R213) -/

theorem cp0Reg_eq_none {rd : BitVec 5} {sel : BitVec 3} (h : sel ≠ 0#3 ∨ rd.toNat ∉ [8, 9, 11, 12, 13, 14]) :
    cp0Reg rd sel = none := by
  unfold cp0Reg
  split_ifs with hsel
  case neg => rfl
  case pos =>
    have hrd := h.resolve_left (not_not_intro (eq_of_beq hsel))
    split
    case h_7 => rfl
    all_goals exact absurd (by decide) hrd

theorem readCp0_of_none {rd : BitVec 5} {sel : BitVec 3} (h : cp0Reg rd sel = none) :
    s.readCp0 rd sel = Config.absentCp0 rd sel s.moment := by
  rw [State.readCp0, h]

theorem writeCp0_of_none {rd : BitVec 5} {sel : BitVec 3} (h : cp0Reg rd sel = none) (v : Word) :
    s.writeCp0 rd sel v = s := by
  rw [State.writeCp0, h]

/-- Settles O58: a pair that names no register (`cp0Reg_eq_none`) reads as the free value, and its write is none. -/
theorem absentCp0Registers : Obligations.AbsentCp0Registers := by
  intro rt rd sel s h
  have hnone := cp0Reg_eq_none h
  exact ⟨doneReg_wroteReg s rt (readCp0_of_none hnone), exec_mtc0_of_write (writeCp0_of_none hnone _)⟩

end Sys2Proof.Proofs
end

-- Proofs of 60_exceptions.md: how each exception is entered, when an interrupt is taken, the timer, and the return.
section

namespace Sys2Proof.Proofs

open Sys2Proof.Machine

variable {i : Instr} {s t : State}

/-! ### Exception entry (R240 to R243) -/

/-- Settles O24: the entry is one operation (`entersException_enterException`), and only its code differs. -/
theorem exceptionEntry : Obligations.ExceptionEntry := fun s bad =>
  ⟨entersException_enterException s .int none, entersException_enterException s .adEL bad,
    entersException_enterException s .adES bad, entersException_enterException s .sys none,
    entersException_enterException s .bp none, entersException_enterException s .ri none,
    entersException_enterException s .ov none⟩

/-- An instruction that raises an exception enters it. -/
theorem raise_enters (s : State) (c : ExcCode) : ∃ t, s.raise c = .next t ∧ s.EntersException t c.code none :=
  ⟨_, (State.raise_next ..).mpr rfl, entersException_enterException s c none⟩

theorem raiseAddress_enters (s : State) (c : ExcCode) (va : Word) :
    ∃ t, s.raiseAddress c va = .next t ∧ s.EntersException t c.code (some va) :=
  ⟨_, (State.raiseAddress_next ..).mpr rfl, entersException_enterException s c (some va)⟩

/-- Settles O25: the meanings do not read the code field (log 18). -/
theorem trapInstructions : Obligations.TrapInstructions :=
  fun _ s => ⟨raise_enters s .sys, raise_enters s .bp⟩

/-- Settles O7: the step runs the decoded word (`step_eq_runDecoded`), which raises Reserved Instruction. -/
theorem unimplementedWordTraps : Obligations.UnimplementedWordTraps := by
  intro s hint hpc hbacked hsees hdecode
  rw [step_eq_runDecoded hint hpc hbacked hsees, hdecode]
  exact raise_enters s.atExecute .ri

/-! ### Address errors (R222 to R224) -/

theorem aligned4_of_not_mod {va : Word} (h : va.toNat % 4 ≠ 0) : aligned4 va = false := by
  rw [aligned4_eq, decide_eq_false h]

theorem aligned2_of_not_mod {va : Word} (h : va.toNat % 2 ≠ 0) : aligned2 va = false := by
  rw [aligned2_eq, decide_eq_false h]

/-- A load that fails its test of alignment traps before any access (47_load_store.md R191). -/
theorem loadAligned_traps {ok : Bool} (hok : ok = false) (r : RegNum) (va : Word) (n : Nat) (f : Word → Word) :
    ∃ t, s.loadAligned ok r va n f = .next t ∧ s.EntersException t 0x04#5 (some va) := by
  rw [hok]
  exact raiseAddress_enters s .adEL va

theorem storeAligned_traps {ok : Bool} (hok : ok = false) (va : Word) (n : Nat) (v : Word) :
    ∃ t, s.storeAligned ok va n v = .next t ∧ s.EntersException t 0x05#5 (some va) := by
  rw [hok]
  exact raiseAddress_enters s .adES va

/-- Settles O48: the three loads that test their address fail the test. -/
theorem misalignedLoadTraps : Obligations.MisalignedLoadTraps := fun _ _ _ _ =>
  ⟨fun hword => loadAligned_traps (aligned4_of_not_mod hword) ..,
    fun hhalf => loadAligned_traps (aligned2_of_not_mod hhalf) ..,
    fun hhalf => loadAligned_traps (aligned2_of_not_mod hhalf) ..⟩

/-- Settles O49: the two stores that test their address fail the test. -/
theorem misalignedStoreTraps : Obligations.MisalignedStoreTraps := fun _ _ _ _ =>
  ⟨fun hword => storeAligned_traps (aligned4_of_not_mod hword) ..,
    fun hhalf => storeAligned_traps (aligned2_of_not_mod hhalf) ..⟩

/-- A step that takes no interrupt, at a misaligned `pc`, raises the fetch's address error. -/
theorem step_eq_raiseAddress (hint : s.sample.interruptTaken s.input.holdOff = false) (hpc : s.pc.toNat % 4 ≠ 0) :
    step s = s.sample.noteHeld.raiseAddress .adEL s.pc := by
  simp [step, State.cycle, hint, State.fetchExecute, aligned4_of_not_mod hpc]

/-- Settles O9: the invariant keeps a delay slot aligned, so the victim is in none and EPC is `pc` itself. -/
theorem misalignedFetchTraps : Obligations.MisalignedFetchTraps := by
  intro s hinv hint hpc
  have hds : s.ds = false := Bool.eq_false_iff.mpr fun hslot =>
    Bool.false_ne_true ((aligned4_of_not_mod hpc).symm.trans (hinv.slotAligned hslot))
  rw [step_eq_raiseAddress hint hpc]
  obtain ⟨t, hnext, henters⟩ := raiseAddress_enters s.sample.noteHeld .adEL s.pc
  exact ⟨t, hnext, henters, henters.badVAddr, fun hexl => henters.saved hexl hds⟩

/-! ### Interrupts (R234 to R236) -/

/-- The condition of R235, line by line. -/
theorem interruptPending_iff (s : State) :
    s.interruptPending = true ↔
      s.ie = true ∧ s.exl = false ∧ ∃ n < 8, s.lineActive n = true ∧ s.im.getLsbD n = true := by
  have hlines : s.interruptLines &&& s.im ≠ 0#8 ↔ ∃ n < 8, s.lineActive n = true ∧ s.im.getLsbD n = true := by
    constructor
    · intro hne
      by_contra hnone
      refine hne (BitVec.eq_of_getLsbD_eq fun n hn => ?_)
      rw [BitVec.getLsbD_and, s.interruptLines_getLsbD n hn, BitVec.getLsbD_zero, Bool.eq_false_iff]
      exact fun hbit => hnone ⟨n, hn, Bool.and_eq_true_iff.mp hbit⟩
    · rintro ⟨n, hn, hactive, hmask⟩ hzero
      have hbit := congrArg (BitVec.getLsbD · n) hzero
      simp [s.interruptLines_getLsbD n hn, hactive, hmask] at hbit
  rw [State.interruptPending, Bool.and_eq_true_iff, Bool.and_eq_true_iff, bne_iff_ne, Bool.not_eq_true', and_assoc]
  exact and_congr_right' (and_congr_right' hlines)

/-- Taking an interrupt is entering the exception; the count of instructions held back is the model's own. -/
theorem takeInterrupt_enters (s : State) : s.EntersException s.takeInterrupt 0x00#5 none :=
  { entersException_enterException s .int none with held := fun hcode => absurd rfl hcode }

/-- Settles O10: the line makes the interrupt pending (`interruptPending_iff`), and nothing holds it back. -/
theorem interruptIsTaken : Obligations.InterruptIsTaken := by
  intro s n hn hie hexl hactive hmask hlatency
  have hpending : s.sample.interruptPending = true :=
    (interruptPending_iff s.sample).mpr ⟨hie, hexl, n, hn, hactive, hmask⟩
  have hnotHeld : (s.input.holdOff && decide (s.intHeld < s.cfg.intLatency)) = false := by
    rcases hlatency with hwilling | hpassed
    · rw [hwilling, Bool.false_and]
    · rw [decide_eq_false (Nat.not_lt.mpr hpassed), Bool.and_false]
  have htaken : s.sample.interruptTaken s.input.holdOff = true := by
    rw [State.interruptTaken, hpending, State.sample_intHeld, State.sample_cfg, hnotHeld]
    rfl
  exact ⟨s.sample.takeInterrupt, if_pos htaken, takeInterrupt_enters s.sample⟩

/-- Settles O11: each of the three conditions alone leaves no interrupt pending (`interruptPending_iff`). -/
theorem interruptIsMasked : Obligations.InterruptIsMasked := by
  intro s hmasked
  have hpending : s.sample.interruptPending = false := by
    rw [Bool.eq_false_iff]
    intro hpending
    obtain ⟨hie, hexl, n, hn, hactive, hmask⟩ := (interruptPending_iff s.sample).mp hpending
    rcases hmasked with hdisabled | hlevel | hquiet
    · exact Bool.false_ne_true (hdisabled.symm.trans hie)
    · exact Bool.false_ne_true (hexl.symm.trans hlevel)
    · exact Bool.false_ne_true ((hquiet n hn).symm.trans (Bool.and_eq_true_iff.mpr ⟨hactive, hmask⟩))
  rw [State.interruptTaken, hpending, Bool.false_and]

/-! ### The timer (R250, R251) -/

theorem add_ofNat_eq_ofNat (v : Word) (k : Nat) : v + BitVec.ofNat 32 k = BitVec.ofNat 32 (v.toNat + k) := by
  rw [BitVec.ofNat_add, BitVec.ofNat_toNat, BitVec.setWidth_eq]

/-- `n` single increments reach Compare exactly where one of the sums up to `n` is Compare. -/
theorem reaches_iff (count compare : Word) (n : Nat) :
    reaches count compare n = true ↔ ∃ k, 1 ≤ k ∧ k ≤ n ∧ compare = count + BitVec.ofNat 32 k := by
  induction n generalizing count with
  | zero => exact ⟨nofun, fun ⟨k, hlow, hhigh, _⟩ => absurd (hlow.trans hhigh) (by decide)⟩
  | succ n ih =>
    have hshift (k : Nat) : count + 1 + BitVec.ofNat 32 k = count + BitVec.ofNat 32 (k + 1) := by
      rw [BitVec.add_assoc, Nat.add_comm k 1, BitVec.ofNat_add]
      rfl
    rw [reaches, Bool.or_eq_true, beq_iff_eq, ih]
    constructor
    · rintro (hfirst | ⟨k, -, hhigh, hlater⟩)
      · exact ⟨1, le_rfl, by omega, hfirst.symm⟩
      · exact ⟨k + 1, by omega, by omega, hlater.trans (hshift k)⟩
    · rintro ⟨_ | _ | k, hlow, hhigh, hmatch⟩
      · exact absurd hlow (by decide)
      · exact .inl hmatch.symm
      · exact .inr ⟨k + 1, by omega, by omega, hmatch.trans (hshift (k + 1)).symm⟩

/-- Settles O12: the sample ticks the timer, and the ticks reach Compare as `reaches_iff` says. -/
theorem timerMatch : Obligations.TimerMatch := by
  intro s
  refine ⟨add_ofNat_eq_ofNat s.count s.input.ticks, rfl, ?_⟩
  simp only [State.sample_ti, Bool.or_eq_true, reaches_iff, add_ofNat_eq_ofNat]

/-! ### What an exception leaves of the one before (R242, R245) -/

/-- Settles O23, by the effects of an instruction: with EXL 1 an entry keeps EPC and BD, and of the writes of
MTC0 only the one to EPC changes either. -/
theorem returnAddressFrozenInHandler : Obligations.ReturnAddressFrozenInHandler := by
  intro i s t h hexl
  cases exec_cases h with
  | reg | hiLo | mthi | mtlo | load | store | branch | link | eret => exact ⟨rfl, fun hne => absurd rfl hne⟩
  | sys | bp | ov | adEL | adES => simp [hexl]
  | mtc0 rt rd sel hi =>
    rcases s.writeCp0_cases rd sel (s.reg rt) with
      hw | ⟨-, -, hw⟩ | ⟨-, -, hw⟩ | ⟨-, -, hw⟩ | ⟨-, -, hw⟩ | ⟨rfl, rfl, hw⟩
    case inr.inr.inr.inr.inr => exact ⟨by simp [hw], fun _ => ⟨rt, hi⟩⟩
    all_goals simp [hw]

/-- Settles O27: outside a handler the entry saves the address to come back to and where it lies, and the return takes
it from there; what neither writes is as before. -/
theorem trapAndReturn : Obligations.TrapAndReturn := by
  intro code s hexl trap excCode htrap
  obtain ⟨c, hraise, rfl⟩ : ∃ c : ExcCode, exec trap s = s.raise c ∧ excCode = c.code := by
    rcases htrap with ⟨rfl, rfl⟩ | ⟨rfl, rfl⟩
    · exact ⟨.sys, rfl, rfl⟩
    · exact ⟨.bp, rfl, rfl⟩
  have hepc : (s.enterException c none).epc = if s.ds then s.pc - 4 else s.pc := by simp [hexl]
  have hbd : (s.enterException c none).bd = s.ds := by simp [hexl]
  exact ⟨s.enterException c none, (s.enterException c none).exceptionReturn, hraise, execEret_next rfl, hepc, rfl, rfl,
    rfl, hbd, rfl, hexl.symm, rfl, rfl, rfl, rfl, rfl, rfl, rfl, fun _ => rfl, ⟨rfl, rfl⟩, fun _ => rfl, ⟨rfl, rfl⟩,
    ⟨rfl, rfl, rfl, rfl, rfl, rfl, rfl, rfl⟩⟩

/-! ### Integer Overflow (R225) -/

/-- A 33-bit result that does not fit traps; `doneUnlessOverflow_of_fits` is the other half. -/
theorem doneUnlessOverflow_traps {x : BitVec 33} (r : RegNum) (hx : x.toInt < -2 ^ 31 ∨ 2 ^ 31 ≤ x.toInt) :
    ∃ t, s.doneUnlessOverflow r x = .next t ∧ s.EntersException t 0x0c#5 none := by
  have hover : overflows x = true := by
    by_contra hfits
    obtain ⟨hlow, hhigh⟩ := (overflows_eq_false_iff x).mp (Bool.eq_false_of_not_eq_true hfits)
    omega
  exact ⟨_, (State.doneUnlessOverflow_next ..).mpr (.inl ⟨hover, rfl⟩), entersException_enterException s .ov none⟩

/-- ExcCode is read-only to MTC0 (10_state.md R50). -/
theorem writeCp0_excCode (s : State) (rd : BitVec 5) (sel : BitVec 3) (v : Word) :
    (s.writeCp0 rd sel v).excCode = s.excCode := by
  rcases s.writeCp0_cases rd sel v with h | ⟨-, -, h⟩ | ⟨-, -, h⟩ | ⟨-, -, h⟩ | ⟨-, -, h⟩ | ⟨-, -, h⟩ <;> simp [h]

/-- What an instruction that changes ExcCode to Integer Overflow can be. -/
theorem effect_overflow (h : Effect i s t) (hbefore : s.excCode ≠ 0x0c#5) (hafter : t.excCode = 0x0c#5) :
    ∃ (a b c : RegNum) (imm : BitVec 16), i = .add a b c ∨ i = .addi a b imm ∨ i = .sub a b c := by
  cases h with
  | reg | hiLo | mthi | mtlo | load | store | branch | link | eret => exact absurd hafter hbefore
  | mtc0 rt rd sel => exact absurd ((writeCp0_excCode s rd sel _).symm.trans hafter) hbefore
  | sys | bp | adEL | adES => simp [ExcCode.code] at hafter
  | ov a b c imm hi => exact ⟨a, b, c, imm, hi⟩

/-- Settles O29: the 33-bit result is the exact one and its overflow test asks whether it fits; and by the effects of an
instruction no other one comes to the code. -/
theorem overflowTraps : Obligations.OverflowTraps := by
  refine ⟨fun s => ⟨fun rd rs rt => ?add, fun rt rs imm => ?addi, fun rd rs rt => ?sub⟩,
    fun i s t h => effect_overflow (exec_cases h)⟩
  case add => rw [← toInt_sum33]; exact doneUnlessOverflow_traps rd
  case addi => rw [← toInt_signExtImm, ← toInt_sum33]; exact doneUnlessOverflow_traps rt
  case sub => rw [← toInt_diff33]; exact doneUnlessOverflow_traps rd

end Sys2Proof.Proofs
end
